-- ==== Sys2Proof/Word.lean ====
section
/-! DEFINITION. The data types of the Deoxys-II core: bytes, 32-bit words, columns, 16-byte blocks and the eight words
of the engine state (00_scope.md R10, R13, R17; 40_engine.md R100, R107). The zero values stand here too; the operations
on these types are in Machine/Bytes.lean. -/

namespace Sys2Proof

/-- An 8-bit byte (R13); bit 0 is its least significant bit. -/
abbrev Byte := BitVec 8

/-- A 32-bit machine word: an interface register, a command word or a word of the engine (R10: REG_BITS, Q_WORD_BITS). -/
abbrev Word := BitVec 32

/-- Four consecutive bytes of a block: one column of the byte matrix, rows 0 to 3 from top to bottom (R100). -/
@[ext] structure Column where
  a0 : Byte
  a1 : Byte
  a2 : Byte
  a3 : Byte
  deriving DecidableEq, Repr

/-- A 16-byte block as the 4 by 4 byte matrix of R100: byte `r + 4c` of the string is row `r` of column `c`. -/
@[ext] structure Block where
  c0 : Column
  c1 : Column
  c2 : Column
  c3 : Column
  deriving DecidableEq, Repr

/-- Eight 32-bit words: the engine state Q[0..7] (10_state.md R30), and any operand of that shape. -/
@[ext] structure EngineWords where
  q0 : Word
  q1 : Word
  q2 : Word
  q3 : Word
  q4 : Word
  q5 : Word
  q6 : Word
  q7 : Word
  deriving DecidableEq, Repr

/-- Four zero bytes. -/
def zeroColumn : Column := ⟨0, 0, 0, 0⟩

/-- Sixteen zero bytes. -/
def zeroBlock : Block := ⟨zeroColumn, zeroColumn, zeroColumn, zeroColumn⟩

/-- Eight zero words: the engine state after reset (70_reset_and_hazards.md R270). -/
def zeroWords : EngineWords := ⟨0, 0, 0, 0, 0, 0, 0, 0⟩

end Sys2Proof
end

