-- ==== Sys2Proof/Syntax.lean ====
section
/-! DEFINITION. The commands of the core: one constructor per row of spec/opcode_table.json (30_encoding.md R74). -/

namespace Sys2Proof

/-- The sixteen commands (R74). Their only encoded operand is the V bit of KEY_SETUP (R72, R73); every other operand is
a descriptor register read when the command runs (R78). -/
inductive Instr where
  /-- KEY_SETUP, with the V bit: false selects the constant-time datapath, true the fast one (R72, R148). -/
  | keySetup (v : Bool)
  /-- AEAD_ENC (R214). -/
  | aeadEnc
  /-- AEAD_DEC (R215). -/
  | aeadDec
  /-- BC_ENC (R175). -/
  | bcEnc
  /-- BC_DUAL_KS (R176). -/
  | bcDualKs
  /-- BC_TAG1 (R177). -/
  | bcTag1
  /-- BC_TAG2 (R178). -/
  | bcTag2
  /-- Q_LOAD1 (R115). -/
  | qLoad1
  /-- Q_LOAD2 (R116). -/
  | qLoad2
  /-- Q_STORE1 (R117). -/
  | qStore1
  /-- Q_STORE2 (R118). -/
  | qStore2
  /-- Q_ORTHO (R119). -/
  | qOrtho
  /-- Q_ADDRK (R120). -/
  | qAddrk
  /-- Q_SUB (R121). -/
  | qSub
  /-- Q_SR (R122). -/
  | qSr
  /-- Q_MC (R123). -/
  | qMc
  deriving DecidableEq, Repr

end Sys2Proof
end

