-- ==== Sys2Proof/WellFormed.lean ====
section
/-! DEFINITION. The three checks that make a command word legal (30_encoding.md R75 (a), (b), (c)), said of the word
itself and independently of the decoder. An `Instr` has no field that could be out of range (the one field is a bit),
so every `Instr` is well-formed. -/

namespace Sys2Proof

/-- The sixteen operation codes that R74 assigns. -/
def assignedOps : List Byte :=
  [0x01, 0x10, 0x11, 0x20, 0x21, 0x22, 0x23, 0x30, 0x31, 0x32, 0x33, 0x34, 0x35, 0x36, 0x37, 0x38]

/-- OP = word[7:0] (R70, R71). -/
def opField (w : Word) : Byte := w.extractLsb' 0 8

/-- V = word[8] (R70, R72). -/
def vField (w : Word) : Bool := w.getLsbD 8

/-- RSV = word[31:9] (R70). -/
def rsvField (w : Word) : BitVec 23 := w.extractLsb' 9 23

/-- R75 (a): the operation code is one that R74 lists. -/
def opAssigned (w : Word) : Bool := assignedOps.contains (opField w)

/-- R75 (b): every reserved bit is 0. -/
def reservedClear (w : Word) : Bool := rsvField w == 0

/-- R75 (c): V is set only beside the operation code of KEY_SETUP. -/
def variantAllowed (w : Word) : Bool := !vField w || opField w == 0x01

/-- A legal command word: none of R75 (a), (b), (c) makes it illegal. -/
def wordLegal (w : Word) : Bool := opAssigned w && reservedClear w && variantAllowed w

/-- Well-formedness of a command. No constructor has a field with an illegal value (R73). -/
def Instr.wf : Instr → Bool
  | .keySetup _ => true
  | .aeadEnc => true
  | .aeadDec => true
  | .bcEnc => true
  | .bcDualKs => true
  | .bcTag1 => true
  | .bcTag2 => true
  | .qLoad1 => true
  | .qLoad2 => true
  | .qStore1 => true
  | .qStore2 => true
  | .qOrtho => true
  | .qAddrk => true
  | .qSub => true
  | .qSr => true
  | .qMc => true

end Sys2Proof
end

