-- ==== Sys2Proof/Decode.lean ====
section
/-! DEFINITION. The decoder of command words, total over all 2^32 words, and the encoder (30_encoding.md R70 to R77). -/

namespace Sys2Proof

/-- Why a command word is no command: the three cases of R75. The core reports each as ILLEGAL. -/
inductive DecodeError where
  /-- R75 (a): an operation code that R74 does not list. -/
  | unassignedOp (op : Byte)
  /-- R75 (b): a reserved bit 31:9 is set. -/
  | reservedBits (rsv : BitVec 23)
  /-- R75 (c): V is set and the operation code is not KEY_SETUP's. -/
  | variantBit (op : Byte)
  deriving DecidableEq, Repr

/-- One row of the opcode map (R74): a word is the row's when `word & mask = pattern`; V then completes the command. -/
structure OpcodeRow where
  pattern : Word
  mask : Word
  instr : Bool → Instr

/-- The opcode map of R74, in its order. -/
def opcodeTable : List OpcodeRow :=
  [ ⟨0x00000001, 0xFFFFFEFF, fun v => .keySetup v⟩,
    ⟨0x00000010, 0xFFFFFFFF, fun _ => .aeadEnc⟩,
    ⟨0x00000011, 0xFFFFFFFF, fun _ => .aeadDec⟩,
    ⟨0x00000020, 0xFFFFFFFF, fun _ => .bcEnc⟩,
    ⟨0x00000021, 0xFFFFFFFF, fun _ => .bcDualKs⟩,
    ⟨0x00000022, 0xFFFFFFFF, fun _ => .bcTag1⟩,
    ⟨0x00000023, 0xFFFFFFFF, fun _ => .bcTag2⟩,
    ⟨0x00000030, 0xFFFFFFFF, fun _ => .qLoad1⟩,
    ⟨0x00000031, 0xFFFFFFFF, fun _ => .qLoad2⟩,
    ⟨0x00000032, 0xFFFFFFFF, fun _ => .qStore1⟩,
    ⟨0x00000033, 0xFFFFFFFF, fun _ => .qStore2⟩,
    ⟨0x00000034, 0xFFFFFFFF, fun _ => .qOrtho⟩,
    ⟨0x00000035, 0xFFFFFFFF, fun _ => .qAddrk⟩,
    ⟨0x00000036, 0xFFFFFFFF, fun _ => .qSub⟩,
    ⟨0x00000037, 0xFFFFFFFF, fun _ => .qSr⟩,
    ⟨0x00000038, 0xFFFFFFFF, fun _ => .qMc⟩ ]

/-- The row test of R71: the whole word compared under the row's mask. -/
def rowMatches (w : Word) (r : OpcodeRow) : Bool := (w &&& r.mask) == r.pattern

/-- The case of R75 that makes a word illegal. Where several do, a reserved bit is named first, then the operation
code (the core reports ILLEGAL for all of them). -/
def illegalReason (w : Word) : DecodeError :=
  if reservedClear w = false then .reservedBits (rsvField w)
  else if opAssigned w = false then .unassignedOp (opField w)
  else .variantBit (opField w)

/-- The decoder (R71, R75, R76): the first row that the word matches, or the reason why no row does. -/
def decodeWord (w : Word) : Except DecodeError Instr :=
  match opcodeTable.find? (rowMatches w) with
  | some r => .ok (r.instr (vField w))
  | none => .error (illegalReason w)

/-- The encoder: the command word of each command (R74, R72, R79). -/
def encode : Instr → Word
  | .keySetup false => 0x00000001
  | .keySetup true => 0x00000101
  | .aeadEnc => 0x00000010
  | .aeadDec => 0x00000011
  | .bcEnc => 0x00000020
  | .bcDualKs => 0x00000021
  | .bcTag1 => 0x00000022
  | .bcTag2 => 0x00000023
  | .qLoad1 => 0x00000030
  | .qLoad2 => 0x00000031
  | .qStore1 => 0x00000032
  | .qStore2 => 0x00000033
  | .qOrtho => 0x00000034
  | .qAddrk => 0x00000035
  | .qSub => 0x00000036
  | .qSr => 0x00000037
  | .qMc => 0x00000038

/-- The command the decoder reads from the low `nbits` bits of `w`. A command is one 32-bit word (R77), so bits above
nbits are 0, and a number with a bit above bit 31 is no command word. -/
def decodeTableWord (nbits w : Nat) : Option Instr :=
  if w % 2 ^ nbits < 2 ^ 32 then
    match decodeWord (BitVec.ofNat 32 (w % 2 ^ nbits)) with
    | .ok i => some i
    | .error _ => none
  else none

end Sys2Proof
end

