-- ==== Sys2Proof/Config.lean ====
section
/-! DEFINITION. What an implementation fixes (MEM_SIZE, 00_scope.md R11) and the values the spec leaves free
(10_state.md R31). -/

namespace Sys2Proof

/-- The one open parameter of the spec: the size of the buffer memory M (R11, decision D4). It is held as the highest
address of M, a 32-bit number, so that 1 ≤ MEM_SIZE ≤ 2^32 holds of every configuration. -/
structure Config where
  memTop : Word
  deriving DecidableEq, Repr

/-- MEM_SIZE, the number of bytes of M (R11). -/
def Config.memSize (c : Config) : Nat := c.memTop.toNat + 1

/-- The free draws of R31: the word a draw gives at each position of the model's draw counter. It has no body, so no
proof can use its value: whatever is proved holds for every draw. See assumption log entry 3. -/
opaque Config.freeWord : Nat → Word

end Sys2Proof
end

