-- ==== Sys2Proof/Machine/State.lean ====
section
/-! DEFINITION. The state of the machine (10_state.md), the reasons a step can stop, and the state after reset
(70_reset_and_hazards.md R270). -/

namespace Sys2Proof.Machine

/-- The cipher datapath (10_state.md R29): VARIANT = 0 is the constant-time bit-sliced one, VARIANT = 1 the fast one. -/
inductive Variant where
  | constantTime
  | fast
  deriving DecidableEq, Repr

/-- The completion codes STATUS.ERR (60_exceptions.md R241). Codes 8 to 15 are never produced, so they have no name. -/
inductive ErrCode where
  /-- 0: success. -/
  | ok
  /-- 1: KEY_LEN ≠ 32 (R246). -/
  | keySize
  /-- 2: NONCE_LEN ≠ 15 (R247). -/
  | nonceSize
  /-- 3: SRC_LEN < 16 or tag mismatch (R248, R249). -/
  | auth
  /-- 4: KEY_VALID = 0 (R245). -/
  | noKey
  /-- 5: illegal command word (R244). -/
  | illegal
  /-- 6: an operand region outside M (R250). -/
  | range
  /-- 7: the AEAD output overlaps an input other than exactly in place (R251). -/
  | overlap
  deriving DecidableEq, Repr

/-- The kinds of host protocol violation (60_exceptions.md R255 (a) and (b); 70_reset_and_hazards.md R273). -/
inductive Violation where
  /-- R255 (a): a register write, or any access to M, while BUSY = 1. -/
  | accessWhileBusy
  /-- R273: a register write, or any access to M, after a command has finished and before the host has read STATUS with
  BUSY = 0. -/
  | accessBeforeStatusRead
  /-- R255 (b): a register access that is not an aligned 32-bit word in 0x00..0x3C. -/
  | badRegisterAccess
  deriving DecidableEq, Repr

/-- The ten descriptor registers (10_state.md R21, R24), each 32 bits wide and 0 after reset. -/
@[ext] structure Descriptors where
  /-- offset 0x08 -/
  keyPtr : Word
  /-- offset 0x0C -/
  keyLen : Word
  /-- offset 0x10 -/
  noncePtr : Word
  /-- offset 0x14 -/
  nonceLen : Word
  /-- offset 0x18 -/
  adPtr : Word
  /-- offset 0x1C -/
  adLen : Word
  /-- offset 0x20 -/
  srcPtr : Word
  /-- offset 0x24 -/
  srcLen : Word
  /-- offset 0x28 -/
  dstPtr : Word
  /-- offset 0x2C -/
  auxPtr : Word
  deriving DecidableEq, Repr

/-- What the host, the machine's other agent, can do in one action (10_state.md R19 (1), 30_encoding.md R79). -/
inductive HostAct where
  /-- A register write of `width` bytes at byte offset `offset`; only aligned 4-byte accesses are admitted (R26). -/
  | regWrite (offset width : Nat) (value : Word)
  /-- A register read of `width` bytes at byte offset `offset`. -/
  | regRead (offset width : Nat)
  /-- A byte-string write to M (R60). -/
  | memWrite (addr : Nat) (bytes : List Byte)
  /-- A byte-string read from M (R60). -/
  | memRead (addr count : Nat)
  deriving DecidableEq, Repr

/-- Who moves at a step: the host with one action, the core with its one kind of step (R19), or a reset applied from
outside (R271). -/
inductive Turn where
  | host (a : HostAct)
  | core
  | reset
  deriving DecidableEq, Repr

/-- What a host read brought back. -/
inductive Reading where
  | reg (offset : Nat) (value : Word)
  | mem (addr : Nat) (bytes : List Byte)
  deriving DecidableEq, Repr

/-- The buffer memory M as address and byte pairs (20_memory.md R50). The canonical form is `Memory.wf` of
Machine/Ops.lean: addresses strictly rising, below MEM_SIZE, and no entry equal to the byte an unlisted address reads
as. -/
abbrev Memory := List Host.Cell

/-- The full machine state (10_state.md R19): interface registers, PENDING, DK, KEY_VALID, VARIANT, Q, M and FAULT, with
the configuration beside it and, last, four fields of the model's own. -/
structure State where
  /-- MEM_SIZE (R11). It is configuration: no step changes it. -/
  cfg : Config
  /-- The descriptor registers (R24). -/
  regs : Descriptors
  /-- PENDING, the latched command word (R32). -/
  pending : Word
  /-- STATUS.ERR (R23). -/
  err : ErrCode
  /-- STATUS.BUSY (R23). -/
  busy : Bool
  /-- KEY_VALID, STATUS[9] (R28). -/
  keyValid : Bool
  /-- VARIANT, STATUS[10] (R29). -/
  variant : Variant
  /-- The derived-K store DK[0..16] (R27). -/
  dk : Vector Block 17
  /-- The engine state Q[0..7] (R30). -/
  q : EngineWords
  /-- The buffer memory M (R50). -/
  mem : Memory
  /-- The sticky fault mark FAULT with the violation's kind (R255); none is "clear". -/
  fault : Option Violation
  /-- The model's own: a CMD write has issued a command and the host has not yet read STATUS with BUSY = 0, so that a
  register write or an access to M would break 70_reset_and_hazards.md R273 (log entry 17). -/
  awaiting : Bool
  /-- The model's own: how many words of `Config.freeWord` have been drawn (R31). -/
  draws : Nat
  /-- The model's own: who moves next, first turn first. When it is empty the core moves. -/
  agenda : List Turn
  /-- The model's own: what the host has read, oldest first. -/
  seen : List Reading
  deriving DecidableEq, Repr

/-- Why a step stops with a fault. -/
inductive Fault where
  /-- Raised by `step` in a state that carries the mark FAULT: the spec gives the hardware's response to a host
  protocol violation no meaning (R255), so nothing but a reset goes on from there. Safe. -/
  | hostProtocol (v : Violation)
  /-- Raised by a host access to M at an address that does not exist, at or above MEM_SIZE (R50, R11); the core never
  raises it, since its range check comes first (R55). Safe. -/
  | addressOutsideM
  deriving DecidableEq, Repr

/-- Why a step is refused. -/
inductive Refusal where
  /-- The command has no meaning in the model. No arm of `exec` answers it: every command is modelled. Safe. -/
  | notModelled (mnemonic : String)
  deriving DecidableEq, Repr

/-- The descriptor registers after reset (R270). -/
def Descriptors.zero : Descriptors := ⟨0, 0, 0, 0, 0, 0, 0, 0, 0, 0⟩

/-- The machine right after reset (R270). The spec states no value for DK, M and MEM_SIZE: DK is seventeen zero blocks
(log entry 2), M lists nothing (log entry 1) and MEM_SIZE is 2^32, as in the spec's examples (log entry 4). -/
def State.reset : State where
  cfg := ⟨0xFFFFFFFF⟩
  regs := Descriptors.zero
  pending := 0
  err := .ok
  busy := false
  keyValid := false
  variant := .constantTime
  dk := ⟨⟨List.replicate 17 zeroBlock⟩, rfl⟩
  q := zeroWords
  mem := []
  fault := none
  awaiting := false
  draws := 0
  agenda := []
  seen := []

end Sys2Proof.Machine
end

