-- ==== Sys2Proof/Machine/Bytes.lean ====
section
/-! DEFINITION. The byte-string and word operations of 00_scope.md R13: concatenation of bytes into words in either byte
order, the bytes of a block, bytewise XOR, rotation. -/

namespace Sys2Proof

/-- `zeros(n)`: n zero bytes (R13). -/
def zeros (n : Nat) : List Byte := List.replicate n 0

/-- Bytewise XOR of two columns. -/
def Column.xor (x y : Column) : Column := ⟨x.a0 ^^^ y.a0, x.a1 ^^^ y.a1, x.a2 ^^^ y.a2, x.a3 ^^^ y.a3⟩

/-- Bytewise XOR of two blocks, `a ⊕ b` (R13). -/
def Block.xor (x y : Block) : Block := ⟨x.c0.xor y.c0, x.c1.xor y.c1, x.c2.xor y.c2, x.c3.xor y.c3⟩

/-- The same byte function at each of the four bytes of a column. -/
def Column.map (f : Byte → Byte) (x : Column) : Column := ⟨f x.a0, f x.a1, f x.a2, f x.a3⟩

/-- The same byte function at each of the sixteen bytes of a block. -/
def Block.map (f : Byte → Byte) (x : Block) : Block := ⟨x.c0.map f, x.c1.map f, x.c2.map f, x.c3.map f⟩

/-- The four bytes of a column in index order. -/
def Column.bytes (x : Column) : List Byte := [x.a0, x.a1, x.a2, x.a3]

/-- The sixteen bytes of a block in index order: byte `r + 4c` is row r of column c (40_engine.md R100). -/
def Block.bytes (x : Block) : List Byte := x.c0.bytes ++ x.c1.bytes ++ x.c2.bytes ++ x.c3.bytes

/-- The column of the four bytes at offset `o` of a byte string (0 where the string has ended). -/
def columnAt (b : List Byte) (o : Nat) : Column := ⟨b.getD o 0, b.getD (o + 1) 0, b.getD (o + 2) 0, b.getD (o + 3) 0⟩

/-- The block of the sixteen bytes at offset `o` of a byte string (0 where the string has ended). -/
def blockAt (b : List Byte) (o : Nat) : Block := ⟨columnAt b o, columnAt b (o + 4), columnAt b (o + 8), columnAt b (o + 12)⟩

/-- A column as a little-endian word: byte 0 is bits 7..0 (R13, `le32`). -/
def Column.leWord (x : Column) : Word := x.a3 ++ x.a2 ++ x.a1 ++ x.a0

/-- `le32(b, o)`: the little-endian word at offset o of a byte string (R13). -/
def le32 (b : List Byte) (o : Nat) : Word := (columnAt b o).leWord

/-- `le32bytes(w)`: the four bytes of a word, least significant first (R13). -/
def le32bytes (w : Word) : Column := ⟨w.extractLsb' 0 8, w.extractLsb' 8 8, w.extractLsb' 16 8, w.extractLsb' 24 8⟩

/-- `be32(j)`: the four bytes of a number below 2^32, most significant first (R13). -/
def be32 (j : Nat) : Column :=
  ⟨BitVec.ofNat 8 (j >>> 24), BitVec.ofNat 8 (j >>> 16), BitVec.ofNat 8 (j >>> 8), BitVec.ofNat 8 j⟩

/-- `rotr32(x, n)` (R13). -/
def rotr32 (x : Word) (n : Nat) : Word := (x >>> n) ||| (x <<< (32 - n))

/-- 8-bit rotate left (40_engine.md R101). -/
def rotl8 (x : Byte) (n : Nat) : Byte := (x <<< n) ||| (x >>> (8 - n))

/-- Bytewise XOR of two byte strings; where one is longer, its surplus is dropped (R13; 43_aead.md R208 truncates the
keystream so). -/
def xorBytes (x y : List Byte) : List Byte := List.zipWith (fun a b => a ^^^ b) x y

/-- XOR of two groups of eight words. -/
def EngineWords.xor (x y : EngineWords) : EngineWords :=
  ⟨x.q0 ^^^ y.q0, x.q1 ^^^ y.q1, x.q2 ^^^ y.q2, x.q3 ^^^ y.q3, x.q4 ^^^ y.q4, x.q5 ^^^ y.q5, x.q6 ^^^ y.q6, x.q7 ^^^ y.q7⟩

/-- The same word function at each of the eight words. -/
def EngineWords.map (f : Word → Word) (x : EngineWords) : EngineWords :=
  ⟨f x.q0, f x.q1, f x.q2, f x.q3, f x.q4, f x.q5, f x.q6, f x.q7⟩

end Sys2Proof
end

