-- ==== Sys2Proof/Machine/Flags.lean ====
section
/-! DEFINITION. The completion codes and the STATUS register (10_state.md R23, R36; 60_exceptions.md R241). The only
flags of the core are the fields of STATUS. -/

namespace Sys2Proof.Machine

/-- The 4-bit code of a completion (R241). -/
def ErrCode.code : ErrCode → BitVec 4
  | .ok => 0
  | .keySize => 1
  | .nonceSize => 2
  | .auth => 3
  | .noKey => 4
  | .illegal => 5
  | .range => 6
  | .overlap => 7

/-- The VARIANT bit (R29): 0 is the constant-time datapath, 1 the fast one. -/
def Variant.bit : Variant → Bool
  | .constantTime => false
  | .fast => true

/-- The datapath that the V bit of KEY_SETUP selects (R72). -/
def Variant.ofBit : Bool → Variant
  | false => .constantTime
  | true => .fast

/-- The STATUS word from its fields (R23): ERR in 3:0, zeros in 7:4, BUSY in 8, KEY_VALID in 9, VARIANT in 10, zeros in
31:11. -/
def statusWord (err : ErrCode) (busy keyValid : Bool) (variant : Variant) : Word :=
  (0 : BitVec 21) ++ BitVec.ofBool variant.bit ++ BitVec.ofBool keyValid ++ BitVec.ofBool busy ++ (0 : BitVec 4) ++ err.code

/-- What a read of STATUS gives (R23). -/
def State.status (s : State) : Word := statusWord s.err s.busy s.keyValid s.variant

/-- The checks of a command in the order of R242, each as "this error applies": the first that applies is reported, and
no later check is made. -/
def firstError : List (Bool × ErrCode) → Option ErrCode
  | [] => none
  | (applies, e) :: rest => if applies then some e else firstError rest

end Sys2Proof.Machine
end

