-- ==== Sys2Proof/Machine/Ops.lean ====
section
/-! DEFINITION. The named operations over memory and state. Ending a command is ONE operation, `State.finish`: the core
has no exception entry and no return from one (60_exceptions.md R240, R253), and an error is a completion code. -/

namespace Sys2Proof.Machine

/-! ### Memory (20_memory.md) -/

/-- The byte an unlisted address of M reads as: zero. The spec leaves M open after reset (R68); log entry 1,
DESIGN CHOICE. -/
def Memory.blank : Byte := 0

/-- `M[a]`: one byte of memory (R51). -/
def Memory.read : Memory → Nat → Byte
  | [], _ => Memory.blank
  | (b, v) :: rest, a => if b = a then v else Memory.read rest a

/-- The memory without any entry for an address. -/
def Memory.erase (m : Memory) (a : Nat) : Memory := m.filter fun c => c.1 != a

/-- An entry put at its place in the order of addresses. -/
def Memory.insert : Memory → Nat → Byte → Memory
  | [], a, v => [(a, v)]
  | (b, w) :: rest, a, v => if a < b then (a, v) :: (b, w) :: rest else (b, w) :: Memory.insert rest a v

/-- `M[a] <- v`: one byte written (R51). Writing the byte an unlisted address reads as removes the entry. -/
def Memory.write (m : Memory) (a : Nat) (v : Byte) : Memory :=
  if v = Memory.blank then m.erase a else (m.erase a).insert a v

/-- `MemRead(a, n)`: n bytes at ascending addresses (R51). -/
def Memory.readBytes (m : Memory) (a : Nat) : Nat → List Byte
  | 0 => []
  | n + 1 => m.read a :: Memory.readBytes m (a + 1) n

/-- `MemWrite(a, |v|, v)`: a byte string at ascending addresses (R51). -/
def Memory.writeBytes (m : Memory) (a : Nat) : List Byte → Memory
  | [] => m
  | v :: rest => Memory.writeBytes (m.write a v) (a + 1) rest

/-- The block of the sixteen bytes at an address (R52). -/
def Memory.readBlock (m : Memory) (a : Nat) : Block := blockAt (m.readBytes a 16) 0

/-- The canonical form of M: addresses strictly rising, all below MEM_SIZE, and no entry equal to what an unlisted
address reads as. -/
abbrev Memory.wf (size : Nat) (m : Memory) : Prop :=
  m.Pairwise (fun c d => c.1 < d.1) ∧ ∀ c ∈ m, c.1 < size ∧ c.2 ≠ Memory.blank

/-! ### State -/

/-- `finish(code)`: ERR gets the code and BUSY is cleared (00_scope.md R14). It is how every command ends (R240), with
success or an error; `raise E` is `finish` with no other effect. -/
def State.finish (s : State) (code : ErrCode) : State := { s with err := code, busy := false }

/-- Q becomes unspecified: eight fresh draws of the free words (10_state.md R31). -/
def State.drawQ (s : State) : State :=
  { s with
    q := ⟨Config.freeWord s.draws, Config.freeWord (s.draws + 1), Config.freeWord (s.draws + 2),
          Config.freeWord (s.draws + 3), Config.freeWord (s.draws + 4), Config.freeWord (s.draws + 5),
          Config.freeWord (s.draws + 6), Config.freeWord (s.draws + 7)⟩
    draws := s.draws + 8 }

/-- The end of a KEY_SETUP, BC_* or AEAD_* command, with or without an error: Q unspecified, then `finish` (R31). -/
def State.finishKeyed (s : State) (code : ErrCode) : State := s.drawQ.finish code

/-- A new memory. -/
def State.setMem (s : State) (m : Memory) : State := { s with mem := m }

/-- New engine words. -/
def State.setQ (s : State) (q : EngineWords) : State := { s with q := q }

/-- A successful KEY_SETUP: DK and VARIANT replaced and KEY_VALID set (41_tweakey.md R148, R147). -/
def State.setKey (s : State) (dk : Vector Block 17) (v : Variant) : State :=
  { s with dk := dk, keyValid := true, variant := v }

/-- New descriptor registers. -/
def State.setRegs (s : State) (r : Descriptors) : State := { s with regs := r }

/-- A CMD write while BUSY = 0: PENDING latched, BUSY set, ERR cleared (R22). From here on the host owes a read of STATUS
(70_reset_and_hazards.md R273). -/
def State.issue (s : State) (w : Word) : State := { s with pending := w, busy := true, err := .ok, awaiting := true }

/-- The host has read STATUS: when it showed BUSY = 0, the read that R273 asks for is done. -/
def State.statusRead (s : State) : State := { s with awaiting := s.awaiting && s.busy }

/-- The mark FAULT with the violation's kind; a mark already there stays as it is (R255). -/
def State.mark (s : State) (v : Violation) : State := { s with fault := some (s.fault.getD v) }

/-- A host read's result, kept after the earlier ones. -/
def State.record (s : State) (r : Reading) : State := { s with seen := s.seen ++ [r] }

/-- The turns still to come. -/
def State.setAgenda (s : State) (t : List Turn) : State := { s with agenda := t }

/-- Reset, applied at any moment (70_reset_and_hazards.md R271): every piece of state of R270 gets its reset value, the
pending command is discarded, M is unchanged. The configuration and the model's own fields stay. -/
def State.applyReset (s : State) : State :=
  { State.reset with cfg := s.cfg, mem := s.mem, draws := s.draws, agenda := s.agenda, seen := s.seen }

/-- The state right after reset on a core with a given MEM_SIZE and given contents of M, with a list of turns to come:
the launch state the host sets up (R11, R68). -/
def State.launch (cfg : Config) (m : Memory) (t : List Turn) : State :=
  { State.reset with cfg := cfg, mem := m, agenda := t }

end Sys2Proof.Machine
end

