-- ==== Sys2Proof/Machine/Ortho.lean ====
section
/-! DEFINITION. The orthogonal (bit-sliced) form and the word-level round functions on it (40_engine.md section 2, R107
to R114). -/

namespace Sys2Proof

/-- The new x of `SWAPN(cl, ch, s, x, y)` (R108). -/
def swapLow (cl : Word) (s : Nat) (x y : Word) : Word := (x &&& cl) ||| ((y &&& cl) <<< s)

/-- The new y of `SWAPN(cl, ch, s, x, y)` (R108). -/
def swapHigh (ch : Word) (s : Nat) (x y : Word) : Word := ((x &&& ch) >>> s) ||| (y &&& ch)

/-- The first line of ORTHO: SWAPN with distance 1 on (Q0,Q1), (Q2,Q3), (Q4,Q5), (Q6,Q7) (R108). -/
def orthoBits (q : EngineWords) : EngineWords :=
  let l := swapLow 0x55555555 1
  let h := swapHigh 0xAAAAAAAA 1
  ⟨l q.q0 q.q1, h q.q0 q.q1, l q.q2 q.q3, h q.q2 q.q3, l q.q4 q.q5, h q.q4 q.q5, l q.q6 q.q7, h q.q6 q.q7⟩

/-- The second line of ORTHO: SWAPN with distance 2 on (Q0,Q2), (Q1,Q3), (Q4,Q6), (Q5,Q7) (R108). -/
def orthoPairs (q : EngineWords) : EngineWords :=
  let l := swapLow 0x33333333 2
  let h := swapHigh 0xCCCCCCCC 2
  ⟨l q.q0 q.q2, l q.q1 q.q3, h q.q0 q.q2, h q.q1 q.q3, l q.q4 q.q6, l q.q5 q.q7, h q.q4 q.q6, h q.q5 q.q7⟩

/-- The third line of ORTHO: SWAPN with distance 4 on (Q0,Q4), (Q1,Q5), (Q2,Q6), (Q3,Q7) (R108). -/
def orthoNibbles (q : EngineWords) : EngineWords :=
  let l := swapLow 0x0F0F0F0F 4
  let h := swapHigh 0xF0F0F0F0 4
  ⟨l q.q0 q.q4, l q.q1 q.q5, l q.q2 q.q6, l q.q3 q.q7, h q.q0 q.q4, h q.q1 q.q5, h q.q2 q.q6, h q.q3 q.q7⟩

/-- ORTHO (R108). -/
def ortho (q : EngineWords) : EngineWords := orthoNibbles (orthoPairs (orthoBits q))

/-- `PACK2(A, B)`: lane A in the even raw words, lane B in the odd ones, then ORTHO (R109). -/
def pack2 (a b : Block) : EngineWords :=
  ortho ⟨a.c0.leWord, b.c0.leWord, a.c1.leWord, b.c1.leWord, a.c2.leWord, b.c2.leWord, a.c3.leWord, b.c3.leWord⟩

/-- `PACK1(A)`: lane B is zero (R109). -/
def pack1 (a : Block) : EngineWords := pack2 a zeroBlock

/-- Lane A of `UNPACK2(Q)`, which is `UNPACK1(Q)` (R110). -/
def unpackA (q : EngineWords) : Block :=
  let w := ortho q
  ⟨le32bytes w.q0, le32bytes w.q2, le32bytes w.q4, le32bytes w.q6⟩

/-- Lane B of `UNPACK2(Q)` (R110). -/
def unpackB (q : EngineWords) : Block :=
  let w := ortho q
  ⟨le32bytes w.q1, le32bytes w.q3, le32bytes w.q5, le32bytes w.q7⟩

/-- The byte formed from bit position p of the eight words, word k giving bit k (R111). -/
def sliceByte (q : EngineWords) (p : Nat) : Byte :=
  BitVec.ofBool (q.q7.getLsbD p) ++ BitVec.ofBool (q.q6.getLsbD p) ++ BitVec.ofBool (q.q5.getLsbD p)
    ++ BitVec.ofBool (q.q4.getLsbD p) ++ BitVec.ofBool (q.q3.getLsbD p) ++ BitVec.ofBool (q.q2.getLsbD p)
    ++ BitVec.ofBool (q.q1.getLsbD p) ++ BitVec.ofBool (q.q0.getLsbD p)

/-- The word whose bit p is `f p` for p below n, and 0 above. -/
def wordOfBits (f : Nat → Bool) : Nat → Word
  | 0 => 0
  | n + 1 => wordOfBits f n ||| (if f n then (1 : Word) <<< n else 0)

/-- The word whose bit p is bit k of the S-box of the byte at bit position p (R111). -/
def subWord (q : EngineWords) (k : Nat) : Word := wordOfBits (fun p => (sbox (sliceByte q p)).getLsbD k) 32

/-- `QSB(Q)`: the substitution on both lanes (R111). -/
def engineSub (q : EngineWords) : EngineWords :=
  ⟨subWord q 0, subWord q 1, subWord q 2, subWord q 3, subWord q 4, subWord q 5, subWord q 6, subWord q 7⟩

/-- The masks and shifts of `QSR` on one word (R112). -/
def shiftRowsWord (x : Word) : Word :=
  (x &&& 0x000000FF)
  ||| ((x &&& 0x0000FC00) >>> 2) ||| ((x &&& 0x00000300) <<< 6)
  ||| ((x &&& 0x00F00000) >>> 4) ||| ((x &&& 0x000F0000) <<< 4)
  ||| ((x &&& 0xC0000000) >>> 6) ||| ((x &&& 0x3F000000) <<< 2)

/-- `QSR(Q)`: the row shift on both lanes (R112). -/
def engineShiftRows (q : EngineWords) : EngineWords := q.map shiftRowsWord

/-- `QMC(Q)`: the column mix on both lanes; all eight results come from the old words (R113). -/
def engineMixColumns (q : EngineWords) : EngineWords :=
  let r (x : Word) : Word := rotr32 x 8
  let rot16 (x : Word) : Word := rotr32 x 16
  ⟨q.q7 ^^^ r q.q7 ^^^ r q.q0 ^^^ rot16 (q.q0 ^^^ r q.q0),
   q.q0 ^^^ r q.q0 ^^^ q.q7 ^^^ r q.q7 ^^^ r q.q1 ^^^ rot16 (q.q1 ^^^ r q.q1),
   q.q1 ^^^ r q.q1 ^^^ r q.q2 ^^^ rot16 (q.q2 ^^^ r q.q2),
   q.q2 ^^^ r q.q2 ^^^ q.q7 ^^^ r q.q7 ^^^ r q.q3 ^^^ rot16 (q.q3 ^^^ r q.q3),
   q.q3 ^^^ r q.q3 ^^^ q.q7 ^^^ r q.q7 ^^^ r q.q4 ^^^ rot16 (q.q4 ^^^ r q.q4),
   q.q4 ^^^ r q.q4 ^^^ r q.q5 ^^^ rot16 (q.q5 ^^^ r q.q5),
   q.q5 ^^^ r q.q5 ^^^ r q.q6 ^^^ rot16 (q.q6 ^^^ r q.q6),
   q.q6 ^^^ r q.q6 ^^^ r q.q7 ^^^ rot16 (q.q7 ^^^ r q.q7)⟩

/-- The eight round-key words of a 32-byte string: word k is `le32` at 4k (R120, 20_memory.md R53). -/
def keyWords (k : List Byte) : EngineWords :=
  ⟨le32 k 0, le32 k 4, le32 k 8, le32 k 12, le32 k 16, le32 k 20, le32 k 24, le32 k 28⟩

/-- The 32 bytes that hold eight words in the little-endian order of `keyWords` (R120). -/
def keyWordBytes (w : EngineWords) : List Byte :=
  (le32bytes w.q0).bytes ++ (le32bytes w.q1).bytes ++ (le32bytes w.q2).bytes ++ (le32bytes w.q3).bytes
    ++ (le32bytes w.q4).bytes ++ (le32bytes w.q5).bytes ++ (le32bytes w.q6).bytes ++ (le32bytes w.q7).bytes

/-- One round of the engine on both lanes (R124): QSB, QSR, QMC, then the round-key words. -/
def engineRound (q k : EngineWords) : EngineWords := (engineMixColumns (engineShiftRows (engineSub q))).xor k

end Sys2Proof
end

