-- ==== Sys2Proof/Machine/Schedule.lean ====
section
/-! DEFINITION. The TWEAKEY schedule (41_tweakey.md R140 to R146) and the Deoxys-BC-384 cipher over it (42_cipher.md
R170 to R174), with the bit-sliced form of the same cipher (R171, R172). -/

namespace Sys2Proof

/-- `H(t)`: output position i takes input position h[i],
h = [1, 6, 11, 12, 5, 10, 15, 0, 9, 14, 3, 4, 13, 2, 7, 8] (R141). -/
def permuteH (t : Block) : Block :=
  ⟨⟨t.c0.a1, t.c1.a2, t.c2.a3, t.c3.a0⟩, ⟨t.c1.a1, t.c2.a2, t.c3.a3, t.c0.a0⟩,
   ⟨t.c2.a1, t.c3.a2, t.c0.a3, t.c1.a0⟩, ⟨t.c3.a1, t.c0.a2, t.c1.a3, t.c2.a0⟩⟩

/-- LFSR2 on one byte: `((x << 1) & 0xFF) | (x7 ⊕ x5)` (R142). -/
def lfsr2Byte (x : Byte) : Byte := (x <<< 1) ||| (BitVec.ofBool (x.getLsbD 7 ^^ x.getLsbD 5)).zeroExtend 8

/-- LFSR3 on one byte: `(x >> 1) | ((x0 ⊕ x6) << 7)` (R143). -/
def lfsr3Byte (x : Byte) : Byte := (x >>> 1) ||| ((BitVec.ofBool (x.getLsbD 0 ^^ x.getLsbD 6)).zeroExtend 8 <<< 7)

/-- `LFSR2(t)` (R142). -/
def lfsr2 (t : Block) : Block := t.map lfsr2Byte

/-- `LFSR3(t)` (R143). -/
def lfsr3 (t : Block) : Block := t.map lfsr3Byte

/-- The table rcon of R144. -/
def rcon : List Byte :=
  [0x2f, 0x5e, 0xbc, 0x63, 0xc6, 0x97, 0x35, 0x6a, 0xd4, 0xb3, 0x7d, 0xfa, 0xef, 0xc5, 0x91, 0x39, 0x72]

/-- `RC(i)` from rcon[i]: the pattern 01 02 04 08 in column 0, the constant filling column 1, zeros after (R144). -/
def roundConstant (c : Byte) : Block := ⟨⟨0x01, 0x02, 0x04, 0x08⟩, ⟨c, c, c, c⟩, zeroColumn, zeroColumn⟩

/-- The loop of DeriveK from given lanes tk2 and tk3, one entry for each remaining round constant (R145). -/
def deriveKFrom : List Byte → Block → Block → List Block
  | [], _, _ => []
  | c :: cs, tk2, tk3 =>
    ((tk2.xor tk3).xor (roundConstant c)) :: deriveKFrom cs (permuteH (lfsr2 tk2)) (permuteH (lfsr3 tk3))

/-- The loop gives one entry for each round constant. -/
theorem deriveKFrom_length (cs : List Byte) (a b : Block) : (deriveKFrom cs a b).length = cs.length := by
  induction cs generalizing a b with
  | nil => rfl
  | cons c cs ih => simp [deriveKFrom, ih]

/-- `DeriveK(key)`: the seventeen entries DK[0..16] of a 32-byte key (R145), with `tk2 = key[16..31]` and
`tk3 = key[0..15]` (R140). -/
def deriveK (key : List Byte) : Vector Block 17 :=
  ⟨⟨deriveKFrom rcon (blockAt key 16) (blockAt key 0)⟩, deriveKFrom_length rcon _ _⟩

/-- The loop of DeriveSTK from a given tweak, one round key for each remaining entry of DK (R146). -/
def deriveSTKFrom : List Block → Block → List Block
  | [], _ => []
  | d :: ds, t => (d.xor t) :: deriveSTKFrom ds (permuteH t)

/-- `DeriveSTK(DK, tweak)`: the sub-tweak-keys STK[0..16] (R146). -/
def deriveSTK (dk : Vector Block 17) (tweak : Block) : List Block := deriveSTKFrom dk.toList tweak

/-- `E` from its round keys: ARK with the first, then one full round for each of the others (R170). -/
def encryptWith : List Block → Block → Block
  | [], p => p
  | k :: ks, p => ks.foldl cipherRound (addRoundKey p k)

/-- `E(DK, tweak, p)`: Deoxys-BC-384 (R170). Both datapaths compute it (R171). -/
def encryptBlock (dk : Vector Block 17) (tweak p : Block) : Block := encryptWith (deriveSTK dk tweak) p

/-- `TagAcc1(DK, T, t, b)` (R173). -/
def tagAcc1 (dk : Vector Block 17) (acc t b : Block) : Block := acc.xor (encryptBlock dk t b)

/-- `TagAcc2(DK, T, t0, t1, b0, b1)` (R174). -/
def tagAcc2 (dk : Vector Block 17) (acc t0 t1 b0 b1 : Block) : Block :=
  (acc.xor (encryptBlock dk t0 b0)).xor (encryptBlock dk t1 b1)

/-- The bit-sliced cipher on the engine words from its round-key words, each the PACK2 of the two lanes' round keys. -/
def engineEncryptWith : List EngineWords → EngineWords → EngineWords
  | [], q => q
  | k :: ks, q => ks.foldl engineRound (q.xor k)

/-- The constant-time datapath (R171, R172): both lanes in one word-parallel pass over the engine's words, lane A
encrypting `a` under tweak t0 and lane B encrypting `b` under t1. -/
def bitslicedPair (dk : Vector Block 17) (t0 t1 a b : Block) : Block × Block :=
  let q := engineEncryptWith (List.zipWith pack2 (deriveSTK dk t0) (deriveSTK dk t1)) (pack2 a b)
  (unpackA q, unpackB q)

end Sys2Proof
end

