-- ==== Sys2Proof/Machine/Scheme.lean ====
section
/-! DEFINITION. The AEAD functions of Deoxys-II (43_aead.md section 1, R200 to R211), and the source's two-blocks-at-a-time
walk of R204. -/

namespace Sys2Proof

/-- `AuthTweak(p, i)`: the prefix in the top nibble of byte 0, the block index big-endian in bytes 12..15 (R200). -/
def authTweak (p : BitVec 4) (i : Nat) : Block :=
  ⟨⟨p ++ (0 : BitVec 4), 0, 0, 0⟩, zeroColumn, zeroColumn, be32 i⟩

/-- The domain-separation prefixes (R201). -/
def adFull : BitVec 4 := 0x2
/-- AD final partial block (R201). -/
def adFinal : BitVec 4 := 0x6
/-- Message full block (R201). -/
def msgFull : BitVec 4 := 0x0
/-- Message final partial block (R201). -/
def msgFinal : BitVec 4 := 0x4

/-- `Pad(x)`: 0x80, then zeros up to 16 bytes (R202). -/
def padBlock (x : List Byte) : Block := blockAt (x ++ [0x80]) 0

/-- The cipher calls of one absorption, tweak and block, in the order of R203: the full blocks with consecutive indices
from 0, then the padded final chunk with the next index if 1 to 15 bytes remain. -/
def absorbCalls (pFull pFinal : BitVec 4) (x : List Byte) : List (Block × Block) :=
  let n := x.length / 16
  (List.range n).map (fun i => (authTweak pFull i, blockAt x (16 * i)))
    ++ (if x.length % 16 = 0 then [] else [(authTweak pFinal n, padBlock (x.drop (16 * n)))])

/-- Folding cipher calls into a running authenticator, each by TagAcc1 (R203, R173). -/
def foldCalls (dk : Vector Block 17) (acc : Block) (calls : List (Block × Block)) : Block :=
  calls.foldl (fun a c => tagAcc1 dk a c.1 c.2) acc

/-- `Absorb(DK, T, X, pFull, pFinal)` (R203). -/
def absorb (dk : Vector Block 17) (acc : Block) (x : List Byte) (pFull pFinal : BitVec 4) : Block :=
  foldCalls dk acc (absorbCalls pFull pFinal x)

/-- `Auth(DK, AD, P)`: one accumulator from zero over the AD and then the message (R205). -/
def authenticate (dk : Vector Block 17) (ad p : List Byte) : Block :=
  absorb dk (absorb dk zeroBlock ad adFull adFinal) p msgFull msgFinal

/-- The 16-byte value with byte 0 = `b` and the nonce at bytes 1..15 (R206, R208). -/
def nonceBlock (b : Byte) (nonce : List Byte) : Block := blockAt (b :: nonce) 0

/-- `TagOf(DK, N, T)`: E of the authenticator under the tweak 0x10 || N (R206). -/
def tagOf (dk : Vector Block 17) (nonce : List Byte) (acc : Block) : Block :=
  encryptBlock dk (nonceBlock 0x10 nonce) acc

/-- `KsTweak(G, j)`: the tag with bit 7 of byte 0 set and bytes 12..15 XORed with the big-endian index (R207). -/
def ksTweak (g : Block) (j : Nat) : Block :=
  ⟨⟨g.c0.a0 ||| 0x80, g.c0.a1, g.c0.a2, g.c0.a3⟩, g.c1, g.c2, g.c3.xor (be32 j)⟩

/-- The number of 16-byte chunks of a string of n bytes, the last one perhaps partial: `ceil(n/16)` (R14). -/
def chunkCount (n : Nat) : Nat := (n + 15) / 16

/-- Keystream block j: E of 0x00 || N under `KsTweak(G, j)` (R208). -/
def keystreamBlock (dk : Vector Block 17) (g : Block) (nonce : List Byte) (j : Nat) : Block :=
  encryptBlock dk (ksTweak g j) (nonceBlock 0x00 nonce)

/-- Chunk j of a byte string: its bytes 16j .. min(16j + 15, |X| − 1) (R208). -/
def chunk (x : List Byte) (j : Nat) : List Byte := (x.drop (16 * j)).take 16

/-- `Keystream(DK, G, N, X)`: each chunk XORed with its keystream block, the last one truncated (R208). -/
def keystream (dk : Vector Block 17) (g : Block) (nonce x : List Byte) : List Byte :=
  (List.range (chunkCount x.length)).flatMap fun j => xorBytes (chunk x j) (keystreamBlock dk g nonce j).bytes

/-- `Seal(DK, N, P, AD)`: the ciphertext and then the 16 tag bytes (R209). -/
def sealMessage (dk : Vector Block 17) (nonce p ad : List Byte) : List Byte :=
  let g := tagOf dk nonce (authenticate dk ad p)
  keystream dk g nonce p ++ g.bytes

/-- The recovered plaintext of Open, before the tag is compared (R210, step 1): the keystream of the received tag over
the body. -/
def openBody (dk : Vector Block 17) (nonce x : List Byte) : List Byte :=
  keystream dk (blockAt x (x.length - 16)) nonce (x.take (x.length - 16))

/-- `ok` of Open: the recomputed tag equals the received one in all 16 bytes (R210 steps 2 to 4, R211). -/
def openOk (dk : Vector Block 17) (nonce x ad : List Byte) : Bool :=
  tagOf dk nonce (authenticate dk ad (openBody dk nonce x)) == blockAt x (x.length - 16)

/-- `Open(DK, N, X, AD)` for |X| ≥ 16: whether the tag verifies, and the plaintext or as many zeros (R210). -/
def openMessage (dk : Vector Block 17) (nonce x ad : List Byte) : Bool × List Byte :=
  if openOk dk nonce x ad then (true, openBody dk nonce x) else (false, zeros (x.length - 16))

/-! The source's walk (R204): pairs of blocks through TagAcc2, a last single block through TagAcc1. -/

/-- Folding cipher calls two at a time, with TagAcc2, and a last single one with TagAcc1 (R204). -/
def walkCalls (dk : Vector Block 17) (acc : Block) : List (Block × Block) → Block
  | [] => acc
  | [c] => tagAcc1 dk acc c.1 c.2
  | c :: d :: rest => walkCalls dk (tagAcc2 dk acc c.1 d.1 c.2 d.2) rest

/-- The source's chunked walk of one input: the full blocks in pairs, then the padded final chunk (R203, R204). -/
def absorbWalk (dk : Vector Block 17) (acc : Block) (x : List Byte) (pFull pFinal : BitVec 4) : Block :=
  let n := x.length / 16
  let full := walkCalls dk acc ((List.range n).map fun i => (authTweak pFull i, blockAt x (16 * i)))
  if x.length % 16 = 0 then full else tagAcc1 dk full (authTweak pFinal n) (padBlock (x.drop (16 * n)))

end Sys2Proof
end

