-- ==== Sys2Proof/Machine/Operands.lean ====
section
/-! DEFINITION. The operands of the commands (30_encoding.md R78): regions of M named by a pointer register and a length,
the range check (20_memory.md R55) and the overlap test (R56). -/

namespace Sys2Proof.Machine

/-- A region R = (p, n): a pointer and a length in bytes, which may exceed 2^32 − 1 (00_scope.md R14, R55). -/
structure Region where
  ptr : Word
  len : Nat
  deriving DecidableEq, Repr

/-- `inrange(p, n)` (R55): n = 0, or p + n ≤ MEM_SIZE in unbounded integers. -/
def Region.inRange (c : Config) (r : Region) : Bool := decide (r.len = 0 ∨ r.ptr.toNat + r.len ≤ c.memSize)

/-- `overlaps(R1, R2)` (R56), in unbounded integers. -/
def Region.overlaps (r t : Region) : Bool :=
  decide (0 < r.len ∧ 0 < t.len ∧ r.ptr.toNat < t.ptr.toNat + t.len ∧ t.ptr.toNat < r.ptr.toNat + r.len)

/-- Whether an address lies in a region. -/
def Region.holds (r : Region) (a : Nat) : Bool := decide (r.ptr.toNat ≤ a ∧ a < r.ptr.toNat + r.len)

/-- `MemRead(R)` (R51). -/
def State.readRegion (s : State) (r : Region) : List Byte := s.mem.readBytes r.ptr.toNat r.len

/-- `MemWrite(p, |v|, v)` at a pointer (R51). -/
def State.store (s : State) (p : Word) (v : List Byte) : State := s.setMem (s.mem.writeBytes p.toNat v)

/-- The block at a pointer plus a byte offset. -/
def State.blockAtPtr (s : State) (p : Word) (o : Nat) : Block := s.mem.readBlock (p.toNat + o)

/-- The key region (KEY_PTR, 32) (R78). -/
def State.keyRegion (s : State) : Region := ⟨s.regs.keyPtr, 32⟩

/-- The nonce region Rn = (NONCE_PTR, 15) (R78). -/
def State.nonceRegion (s : State) : Region := ⟨s.regs.noncePtr, 15⟩

/-- The AD region Ra = (AD_PTR, AD_LEN) (R78). -/
def State.adRegion (s : State) : Region := ⟨s.regs.adPtr, s.regs.adLen.toNat⟩

/-- The AEAD input region Rs = (SRC_PTR, SRC_LEN) (R78). -/
def State.inputRegion (s : State) : Region := ⟨s.regs.srcPtr, s.regs.srcLen.toNat⟩

/-- A region of fixed length at SRC_PTR (R78). -/
def State.srcRegion (s : State) (n : Nat) : Region := ⟨s.regs.srcPtr, n⟩

/-- A region at DST_PTR (R78). -/
def State.dstRegion (s : State) (n : Nat) : Region := ⟨s.regs.dstPtr, n⟩

/-- A region of fixed length at AUX_PTR (R78). -/
def State.auxRegion (s : State) (n : Nat) : Region := ⟨s.regs.auxPtr, n⟩

/-- The output region of each command, "output written to M" of R78 (R214 and R215 for the AEAD commands); none for a
command that writes nothing to M. -/
def State.outputRegion (s : State) : Instr → Option Region
  | .keySetup _ => none
  | .aeadEnc => some (s.dstRegion (s.regs.srcLen.toNat + 16))
  | .aeadDec => some (s.dstRegion (s.regs.srcLen.toNat - 16))
  | .bcEnc => some (s.dstRegion 16)
  | .bcDualKs => some (s.dstRegion 32)
  | .bcTag1 => some (s.dstRegion 16)
  | .bcTag2 => some (s.dstRegion 16)
  | .qLoad1 => none
  | .qLoad2 => none
  | .qStore1 => some (s.dstRegion 16)
  | .qStore2 => some (s.dstRegion 32)
  | .qOrtho => none
  | .qAddrk => none
  | .qSub => none
  | .qSr => none
  | .qMc => none

/-- Some region of the list fails the range check: RANGE applies (R250). -/
def State.outOfRange (s : State) (rs : List Region) : Bool := rs.any fun r => !r.inRange s.cfg

/-- The AEAD output region overlaps the nonce or the AD, or the input other than exactly in place: OVERLAP applies
(R251). -/
def State.outputOverlaps (s : State) (rd : Region) : Bool :=
  rd.overlaps s.nonceRegion || rd.overlaps s.adRegion
    || (rd.overlaps s.inputRegion && s.regs.dstPtr != s.regs.srcPtr)

/-! The checks of the commands in the order of R242, each list written once. -/

/-- The checks of KEY_SETUP: KEY_SIZE, RANGE (R242, R246, R250). -/
def State.keyError (s : State) : Option ErrCode :=
  firstError [(s.regs.keyLen != 32, .keySize), (s.outOfRange [s.keyRegion], .range)]

/-- The checks of a BC_* command with a tweak operand of `t` bytes, an input of `b` and an output of `o`: NO_KEY, RANGE
(R242, R245, R250). -/
def State.cipherError (s : State) (t b o : Nat) : Option ErrCode :=
  firstError [(!s.keyValid, .noKey), (s.outOfRange [s.auxRegion t, s.srcRegion b, s.dstRegion o], .range)]

/-- The checks of AEAD_ENC: NO_KEY, NONCE_SIZE, RANGE, OVERLAP (R242; 43_aead.md R214). -/
def State.encError (s : State) : Option ErrCode :=
  let rd := s.dstRegion (s.regs.srcLen.toNat + 16)
  firstError [(!s.keyValid, .noKey), (s.regs.nonceLen != 15, .nonceSize),
    (s.outOfRange [s.nonceRegion, s.adRegion, s.inputRegion, rd], .range), (s.outputOverlaps rd, .overlap)]

/-- The checks of AEAD_DEC before it computes: NO_KEY, NONCE_SIZE, AUTH for a short input, RANGE, OVERLAP (R242;
43_aead.md R215). -/
def State.decError (s : State) : Option ErrCode :=
  let rd := s.dstRegion (s.regs.srcLen.toNat - 16)
  firstError [(!s.keyValid, .noKey), (s.regs.nonceLen != 15, .nonceSize), (decide (s.regs.srcLen.toNat < 16), .auth),
    (s.outOfRange [s.nonceRegion, s.adRegion, s.inputRegion, rd], .range), (s.outputOverlaps rd, .overlap)]

end Sys2Proof.Machine
end

