-- ==== Sys2Proof/Machine/Aead.lean ====
section
/-! DEFINITION. AEAD_ENC and AEAD_DEC (43_aead.md section 3, R214 and R215). Each is one atomic step: its result is the
function Seal or Open of the memory at the start of the step (20_memory.md R59, R61). -/

namespace Sys2Proof.Machine

/-- AEAD_ENC (R214): ciphertext and tag of the plaintext at SRC_PTR to DST_PTR. -/
def execAeadEnc (s : State) : Host.Outcome State Fault Refusal :=
  match s.encError with
  | some e => .next (s.finishKeyed e)
  | none =>
    let n := s.readRegion s.nonceRegion
    let ad := s.readRegion s.adRegion
    let p := s.readRegion s.inputRegion
    .next ((s.store s.regs.dstPtr (sealMessage s.dk n p ad)).finishKeyed .ok)

/-- AEAD_DEC (R215): the plaintext of the ciphertext and tag at SRC_PTR to DST_PTR when the tag verifies, else as many
zeros and AUTH (R249). -/
def execAeadDec (s : State) : Host.Outcome State Fault Refusal :=
  match s.decError with
  | some e => .next (s.finishKeyed e)
  | none =>
    let n := s.readRegion s.nonceRegion
    let ad := s.readRegion s.adRegion
    let x := s.readRegion s.inputRegion
    let r := openMessage s.dk n x ad
    .next ((s.store s.regs.dstPtr r.2).finishKeyed (if r.1 then .ok else .auth))

end Sys2Proof.Machine
end

