-- ==== Sys2Proof/Machine/Cipher.lean ====
section
/-! DEFINITION. The block-cipher commands BC_* (42_cipher.md section 2, R175 to R178). Each needs a key, reads all its
inputs before it writes, and leaves Q unspecified whatever its outcome. -/

namespace Sys2Proof.Machine

/-- BC_ENC (R175): the block at SRC_PTR under the tweak at AUX_PTR, to DST_PTR. -/
def execBcEnc (s : State) : Host.Outcome State Fault Refusal :=
  match s.cipherError 16 16 16 with
  | some e => .next (s.finishKeyed e)
  | none =>
    let t := s.blockAtPtr s.regs.auxPtr 0
    let p := s.blockAtPtr s.regs.srcPtr 0
    .next ((s.store s.regs.dstPtr (encryptBlock s.dk t p).bytes).finishKeyed .ok)

/-- BC_DUAL_KS (R176, R172): the block at SRC_PTR under the two tweaks at AUX_PTR, both results to DST_PTR. -/
def execBcDualKs (s : State) : Host.Outcome State Fault Refusal :=
  match s.cipherError 32 16 32 with
  | some e => .next (s.finishKeyed e)
  | none =>
    let t0 := s.blockAtPtr s.regs.auxPtr 0
    let t1 := s.blockAtPtr s.regs.auxPtr 16
    let n := s.blockAtPtr s.regs.srcPtr 0
    .next ((s.store s.regs.dstPtr ((encryptBlock s.dk t0 n).bytes ++ (encryptBlock s.dk t1 n).bytes)).finishKeyed .ok)

/-- BC_TAG1 (R177): one block folded into the running tag at DST_PTR. -/
def execBcTag1 (s : State) : Host.Outcome State Fault Refusal :=
  match s.cipherError 16 16 16 with
  | some e => .next (s.finishKeyed e)
  | none =>
    let t := s.blockAtPtr s.regs.auxPtr 0
    let b := s.blockAtPtr s.regs.srcPtr 0
    let acc := s.blockAtPtr s.regs.dstPtr 0
    .next ((s.store s.regs.dstPtr (tagAcc1 s.dk acc t b).bytes).finishKeyed .ok)

/-- BC_TAG2 (R178): two blocks under two tweaks folded into the running tag at DST_PTR. -/
def execBcTag2 (s : State) : Host.Outcome State Fault Refusal :=
  match s.cipherError 32 32 16 with
  | some e => .next (s.finishKeyed e)
  | none =>
    let t0 := s.blockAtPtr s.regs.auxPtr 0
    let t1 := s.blockAtPtr s.regs.auxPtr 16
    let b0 := s.blockAtPtr s.regs.srcPtr 0
    let b1 := s.blockAtPtr s.regs.srcPtr 16
    let acc := s.blockAtPtr s.regs.dstPtr 0
    .next ((s.store s.regs.dstPtr (tagAcc2 s.dk acc t0 t1 b0 b1).bytes).finishKeyed .ok)

end Sys2Proof.Machine
end

