-- ==== Sys2Proof/Machine/Engine.lean ====
section
/-! DEFINITION. The engine commands Q_* (40_engine.md section 3, R115 to R123). None checks KEY_VALID; one that fails
leaves Q and M unchanged (R243). -/

namespace Sys2Proof.Machine

/-- Q_LOAD1 (R115): the block at SRC_PTR into lane A, lane B zero. -/
def execQLoad1 (s : State) : Host.Outcome State Fault Refusal :=
  match firstError [(s.outOfRange [s.srcRegion 16], .range)] with
  | some e => .next (s.finish e)
  | none => .next ((s.setQ (pack1 (s.blockAtPtr s.regs.srcPtr 0))).finish .ok)

/-- Q_LOAD2 (R116): lane A from SRC_PTR, lane B from SRC_PTR + 16. -/
def execQLoad2 (s : State) : Host.Outcome State Fault Refusal :=
  match firstError [(s.outOfRange [s.srcRegion 32], .range)] with
  | some e => .next (s.finish e)
  | none =>
    .next ((s.setQ (pack2 (s.blockAtPtr s.regs.srcPtr 0) (s.blockAtPtr s.regs.srcPtr 16))).finish .ok)

/-- Q_STORE1 (R117): lane A to DST_PTR. -/
def execQStore1 (s : State) : Host.Outcome State Fault Refusal :=
  match firstError [(s.outOfRange [s.dstRegion 16], .range)] with
  | some e => .next (s.finish e)
  | none => .next ((s.store s.regs.dstPtr (unpackA s.q).bytes).finish .ok)

/-- Q_STORE2 (R118): lane A to DST_PTR, lane B to DST_PTR + 16. -/
def execQStore2 (s : State) : Host.Outcome State Fault Refusal :=
  match firstError [(s.outOfRange [s.dstRegion 32], .range)] with
  | some e => .next (s.finish e)
  | none => .next ((s.store s.regs.dstPtr ((unpackA s.q).bytes ++ (unpackB s.q).bytes)).finish .ok)

/-- Q_ORTHO (R119): the orthogonal transform of Q in place. -/
def execQOrtho (s : State) : Host.Outcome State Fault Refusal := .next ((s.setQ (ortho s.q)).finish .ok)

/-- Q_ADDRK (R120): word-wise XOR of the eight little-endian words at AUX_PTR into Q. -/
def execQAddrk (s : State) : Host.Outcome State Fault Refusal :=
  match firstError [(s.outOfRange [s.auxRegion 32], .range)] with
  | some e => .next (s.finish e)
  | none => .next ((s.setQ (s.q.xor (keyWords (s.readRegion (s.auxRegion 32))))).finish .ok)

/-- Q_SUB (R121). -/
def execQSub (s : State) : Host.Outcome State Fault Refusal := .next ((s.setQ (engineSub s.q)).finish .ok)

/-- Q_SR (R122). -/
def execQSr (s : State) : Host.Outcome State Fault Refusal := .next ((s.setQ (engineShiftRows s.q)).finish .ok)

/-- Q_MC (R123). -/
def execQMc (s : State) : Host.Outcome State Fault Refusal := .next ((s.setQ (engineMixColumns s.q)).finish .ok)

end Sys2Proof.Machine
end

