-- ==== Sys2Proof/Machine/Tweakey.lean ====
section
/-! DEFINITION. KEY_SETUP (41_tweakey.md R148). -/

namespace Sys2Proof.Machine

/-- KEY_SETUP (R148): the 32 key bytes at KEY_PTR derive DK, KEY_VALID is set and V selects the datapath. On an error
DK, KEY_VALID and VARIANT stay (R243); on every path Q becomes unspecified (R31). -/
def execKeySetup (v : Bool) (s : State) : Host.Outcome State Fault Refusal :=
  match s.keyError with
  | some e => .next (s.finishKeyed e)
  | none => .next ((s.setKey (deriveK (s.readRegion s.keyRegion)) (Variant.ofBit v)).finishKeyed .ok)

end Sys2Proof.Machine
end

