-- ==== Sys2Proof/Machine/Dispatch.lean ====
section
/-! DEFINITION. One arm per command: what each command does to the state. -/

namespace Sys2Proof.Machine

def exec (i : Instr) (s : State) : Host.Outcome State Fault Refusal :=
  match i with
  | .keySetup v => Sys2Proof.Machine.execKeySetup v s
  | .aeadEnc => Sys2Proof.Machine.execAeadEnc s
  | .aeadDec => Sys2Proof.Machine.execAeadDec s
  | .bcEnc => Sys2Proof.Machine.execBcEnc s
  | .bcDualKs => Sys2Proof.Machine.execBcDualKs s
  | .bcTag1 => Sys2Proof.Machine.execBcTag1 s
  | .bcTag2 => Sys2Proof.Machine.execBcTag2 s
  | .qLoad1 => Sys2Proof.Machine.execQLoad1 s
  | .qLoad2 => Sys2Proof.Machine.execQLoad2 s
  | .qStore1 => Sys2Proof.Machine.execQStore1 s
  | .qStore2 => Sys2Proof.Machine.execQStore2 s
  | .qOrtho => Sys2Proof.Machine.execQOrtho s
  | .qAddrk => Sys2Proof.Machine.execQAddrk s
  | .qSub => Sys2Proof.Machine.execQSub s
  | .qSr => Sys2Proof.Machine.execQSr s
  | .qMc => Sys2Proof.Machine.execQMc s

end Sys2Proof.Machine
end

