-- ==== Sys2Proof/Machine/HostPort.lean ====
section
/-! DEFINITION. The host's actions (10_state.md R19 (1), R21 to R26; 20_memory.md R60) and its protocol violations
(60_exceptions.md R255; 70_reset_and_hazards.md R273). -/

namespace Sys2Proof.Machine

/-- The registers of the interface block (R21). -/
inductive Reg where
  | cmd
  | status
  | keyPtr
  | keyLen
  | noncePtr
  | nonceLen
  | adPtr
  | adLen
  | srcPtr
  | srcLen
  | dstPtr
  | auxPtr
  /-- Offsets 0x30, 0x34, 0x38 and 0x3C (R25). -/
  | reserved
  deriving DecidableEq, Repr

/-- The register at a byte offset (R21); none where no aligned word of the block begins (R26). -/
def regAtOffset (offset : Nat) : Option Reg :=
  match offset with
  | 0x00 => some .cmd
  | 0x04 => some .status
  | 0x08 => some .keyPtr
  | 0x0C => some .keyLen
  | 0x10 => some .noncePtr
  | 0x14 => some .nonceLen
  | 0x18 => some .adPtr
  | 0x1C => some .adLen
  | 0x20 => some .srcPtr
  | 0x24 => some .srcLen
  | 0x28 => some .dstPtr
  | 0x2C => some .auxPtr
  | 0x30 => some .reserved
  | 0x34 => some .reserved
  | 0x38 => some .reserved
  | 0x3C => some .reserved
  | _ => none

/-- The register that an access of `width` bytes at a byte offset reaches: only whole aligned words are admitted (R26). -/
def regOfAccess (offset width : Nat) : Option Reg := if width = 4 then regAtOffset offset else none

/-- What a read of a register gives (R22 to R25): CMD and the reserved offsets read 0. -/
def State.readReg (s : State) : Reg → Word
  | .cmd => 0
  | .status => s.status
  | .keyPtr => s.regs.keyPtr
  | .keyLen => s.regs.keyLen
  | .noncePtr => s.regs.noncePtr
  | .nonceLen => s.regs.nonceLen
  | .adPtr => s.regs.adPtr
  | .adLen => s.regs.adLen
  | .srcPtr => s.regs.srcPtr
  | .srcLen => s.regs.srcLen
  | .dstPtr => s.regs.dstPtr
  | .auxPtr => s.regs.auxPtr
  | .reserved => 0

/-- What a write of a register does when the host may write: CMD issues a command (R22), a descriptor register stores the value
(R24), STATUS and the reserved offsets ignore it (R23, R25). -/
def State.writeReg (s : State) (v : Word) : Reg → State
  | .cmd => s.issue v
  | .status => s
  | .keyPtr => s.setRegs { s.regs with keyPtr := v }
  | .keyLen => s.setRegs { s.regs with keyLen := v }
  | .noncePtr => s.setRegs { s.regs with noncePtr := v }
  | .nonceLen => s.setRegs { s.regs with nonceLen := v }
  | .adPtr => s.setRegs { s.regs with adPtr := v }
  | .adLen => s.setRegs { s.regs with adLen := v }
  | .srcPtr => s.setRegs { s.regs with srcPtr := v }
  | .srcLen => s.setRegs { s.regs with srcLen := v }
  | .dstPtr => s.setRegs { s.regs with dstPtr := v }
  | .auxPtr => s.setRegs { s.regs with auxPtr := v }
  | .reserved => s

/-- Why the host may not write a register or touch M now: a command is pending (R255 (a)), or one has finished and the
host has not yet read STATUS with BUSY = 0 (70_reset_and_hazards.md R273). -/
def State.hostBarred (s : State) : Option Violation :=
  if s.busy then some .accessWhileBusy else if s.awaiting then some .accessBeforeStatusRead else none

/-- A register write (R22 to R26). A write that is no aligned word of the block is a violation, and so is any write while
the host is barred; a violation only sets the mark (R255, R273). -/
def hostRegWrite (offset width : Nat) (v : Word) (s : State) : Host.Outcome State Fault Refusal :=
  match regOfAccess offset width, s.hostBarred with
  | none, _ => .next (s.mark .badRegisterAccess)
  | some _, some k => .next (s.mark k)
  | some r, none => .next (s.writeReg v r)

/-- What a read of a register leaves behind: a read of STATUS may be the one that R273 asks for; no read changes anything
of the core (R60). -/
def State.afterRead (s : State) (r : Reg) : State := if r = .status then s.statusRead else s

/-- A register read (R26, R60); it is allowed at any time (R255, R273). -/
def hostRegRead (offset width : Nat) (s : State) : Host.Outcome State Fault Refusal :=
  match regOfAccess offset width with
  | none => .next (s.mark .badRegisterAccess)
  | some r => .next ((s.record (.reg offset (s.readReg r))).afterRead r)

/-- Whether a byte string of n bytes at address a lies in M (R50, R55). -/
def insideM (c : Config) (a n : Nat) : Bool := decide (n = 0 ∨ a + n ≤ c.memSize)

/-- A host write to M (R60): a violation while the host is barred (R255, R273), a fault at an address that does not
exist. -/
def hostMemWrite (a : Nat) (v : List Byte) (s : State) : Host.Outcome State Fault Refusal :=
  match s.hostBarred with
  | some k => .next (s.mark k)
  | none => if insideM s.cfg a v.length then .next (s.setMem (s.mem.writeBytes a v)) else .fault .addressOutsideM

/-- A host read of M (R60): a violation while the host is barred (R255, R273), a fault at an address that does not
exist. -/
def hostMemRead (a n : Nat) (s : State) : Host.Outcome State Fault Refusal :=
  match s.hostBarred with
  | some k => .next (s.mark k)
  | none => if insideM s.cfg a n then .next (s.record (.mem a (s.mem.readBytes a n))) else .fault .addressOutsideM

/-- One action of the host (R19 (1)). -/
def hostStep (a : HostAct) (s : State) : Host.Outcome State Fault Refusal :=
  match a with
  | .regWrite offset width v => hostRegWrite offset width v s
  | .regRead offset width => hostRegRead offset width s
  | .memWrite addr bytes => hostMemWrite addr bytes s
  | .memRead addr count => hostMemRead addr count s

end Sys2Proof.Machine
end

