-- ==== Sys2Proof/Machine/CoreStep.lean ====
section
/-! DEFINITION. The core's one kind of step (10_state.md R19 (2)) and the turns of the machine. -/

namespace Sys2Proof.Machine

/-- The core's step: while BUSY = 1 it executes the command in PENDING, an illegal word finishing with ILLEGAL and
changing nothing but STATUS (30_encoding.md R75); while BUSY = 0 the core is idle (R19, 60_exceptions.md R261). -/
def coreStep (s : State) : Host.Outcome State Fault Refusal :=
  if s.busy then
    match decodeWord s.pending with
    | .ok i => exec i s
    | .error _ => .next (s.finish .illegal)
  else .next s

/-- One turn from an unmarked state. -/
def takeTurn (t : Turn) (s : State) : Host.Outcome State Fault Refusal :=
  match t with
  | .host a => hostStep a s
  | .core => coreStep s
  | .reset => .next s.applyReset

/-- The next turn and the turns after it: the head of the agenda, or the core's when the agenda is empty. The core's step
therefore always comes at last (the fairness of 70_reset_and_hazards.md R280). -/
def nextTurn : List Turn → Turn × List Turn
  | [] => (.core, [])
  | t :: rest => (t, rest)

/-- One step of the machine. In a state that carries the mark FAULT only a reset is taken: the spec gives the hardware's
response no meaning (R255), so any other turn stops with a fault. -/
def machineStep (s : State) : Host.Outcome State Fault Refusal :=
  let (t, rest) := nextTurn s.agenda
  match s.fault, t with
  | some v, .host _ => .fault (.hostProtocol v)
  | some v, .core => .fault (.hostProtocol v)
  | _, t => takeTurn t (s.setAgenda rest)

/-- PENDING, BUSY and ERR as a CMD write of the word leaves them, no mark, and the core to move next: the core's next step
executes exactly this word. -/
def placeCommand (s : State) (w : Word) : State := { s.issue w with fault := none, agenda := [] }

end Sys2Proof.Machine
end

