-- ==== Sys2Proof/Machine/Step.lean ====
section
/-! DEFINITION. The step of the machine, and a state with a given command word as the one its next step executes. -/

namespace Sys2Proof.Machine

/-- One step of the machine: the turn that comes next, of the host, the core or a reset (10_state.md R19, R271). -/
def step (s : State) : Host.Outcome State Fault Refusal := machineStep s

/-- `s` with the command whose low `nbits` bits are `w` in PENDING, as a CMD write leaves it (R22), so that the very next
step executes it. The core fetches nothing (10_state.md R35): this stands for the host's CMD write (log entry 6). -/
def State.withFetchWord (s : State) (nbits w : Nat) : State := placeCommand s (BitVec.ofNat 32 (w % 2 ^ nbits))

end Sys2Proof.Machine
end

