-- ==== Sys2Proof/Machine/Counting.lean ====
section
/-! DEFINITION. The commands once more with every evaluation of E counted (70_reset_and_hazards.md R278). The cipher is
reached only through `Counted.encrypt`, and each function below repeats the one it is named after, call by call; its value
is that function's (stated of the commands in Obligations.lean, shown of the functions in Laws/Counting.lean). -/

namespace Sys2Proof

/-- A value together with the number of E evaluations that were made for it. -/
structure Counted (α : Type) where
  value : α
  calls : Nat
  deriving DecidableEq, Repr

/-- A value for which E is not evaluated. -/
def Counted.pure {α : Type} (a : α) : Counted α := ⟨a, 0⟩

/-- One computation after another; the evaluations of both count. -/
def Counted.bind {α β : Type} (x : Counted α) (f : α → Counted β) : Counted β :=
  ⟨(f x.value).value, x.calls + (f x.value).calls⟩

/-- One evaluation of E (42_cipher.md R170). -/
def Counted.encrypt (dk : Vector Block 17) (tweak p : Block) : Counted Block := ⟨encryptBlock dk tweak p, 1⟩

/-- `DualKeystream` (R172). -/
def Counted.dualKeystream (dk : Vector Block 17) (t0 t1 n : Block) : Counted (Block × Block) :=
  (Counted.encrypt dk t0 n).bind fun x => (Counted.encrypt dk t1 n).bind fun y => .pure (x, y)

/-- `TagAcc1` (R173). -/
def Counted.tagAcc1 (dk : Vector Block 17) (acc t b : Block) : Counted Block :=
  (Counted.encrypt dk t b).bind fun e => .pure (acc.xor e)

/-- `TagAcc2` (R174). -/
def Counted.tagAcc2 (dk : Vector Block 17) (acc t0 t1 b0 b1 : Block) : Counted Block :=
  (Counted.tagAcc1 dk acc t0 b0).bind fun a => Counted.tagAcc1 dk a t1 b1

/-- The cipher calls of an absorption, folded one by one (43_aead.md R203). -/
def Counted.foldCalls (dk : Vector Block 17) : Block → List (Block × Block) → Counted Block
  | acc, [] => .pure acc
  | acc, c :: rest => (Counted.tagAcc1 dk acc c.1 c.2).bind fun a => Counted.foldCalls dk a rest

/-- `Absorb` (R203). -/
def Counted.absorb (dk : Vector Block 17) (acc : Block) (x : List Byte) (pFull pFinal : BitVec 4) : Counted Block :=
  Counted.foldCalls dk acc (absorbCalls pFull pFinal x)

/-- `Auth` and then `TagOf`: the tag of an AD and a message (R205, R206). -/
def Counted.tag (dk : Vector Block 17) (nonce ad p : List Byte) : Counted Block :=
  (Counted.absorb dk zeroBlock ad adFull adFinal).bind fun a =>
    (Counted.absorb dk a p msgFull msgFinal).bind fun t => Counted.encrypt dk (nonceBlock 0x10 nonce) t

/-- The keystream over the chunks of a list, in its order (R208). -/
def Counted.keystreamChunks (dk : Vector Block 17) (g : Block) (nonce x : List Byte) : List Nat → Counted (List Byte)
  | [] => .pure []
  | j :: rest =>
    (Counted.encrypt dk (ksTweak g j) (nonceBlock 0x00 nonce)).bind fun k =>
      (Counted.keystreamChunks dk g nonce x rest).bind fun out => .pure (xorBytes (chunk x j) k.bytes ++ out)

/-- `Keystream` (R208). -/
def Counted.keystream (dk : Vector Block 17) (g : Block) (nonce x : List Byte) : Counted (List Byte) :=
  Counted.keystreamChunks dk g nonce x (List.range (chunkCount x.length))

/-- `Seal` (R209). -/
def Counted.sealMessage (dk : Vector Block 17) (nonce p ad : List Byte) : Counted (List Byte) :=
  (Counted.tag dk nonce ad p).bind fun g => (Counted.keystream dk g nonce p).bind fun c => .pure (c ++ g.bytes)

/-- `Open` (R210). -/
def Counted.openMessage (dk : Vector Block 17) (nonce x ad : List Byte) : Counted (Bool × List Byte) :=
  let body := x.take (x.length - 16)
  let r := blockAt x (x.length - 16)
  (Counted.keystream dk r nonce body).bind fun p =>
    (Counted.tag dk nonce ad p).bind fun g => .pure (if g = r then (true, p) else (false, zeros (x.length - 16)))

end Sys2Proof

namespace Sys2Proof.Machine

/-- A keyed command from its first error, if a check applies, and otherwise the counted bytes that it writes at DST_PTR
with the code that it finishes with. -/
def State.countedStore (s : State) (error : Option ErrCode) (out : Counted (List Byte × ErrCode)) :
    Counted (Host.Outcome State Fault Refusal) :=
  match error with
  | some e => .pure (.next (s.finishKeyed e))
  | none => out.bind fun w => .pure (.next ((s.store s.regs.dstPtr w.1).finishKeyed w.2))

/-- AEAD_ENC, counted (43_aead.md R214). -/
def countedAeadEnc (s : State) : Counted (Host.Outcome State Fault Refusal) :=
  s.countedStore s.encError
    ((Counted.sealMessage s.dk (s.readRegion s.nonceRegion) (s.readRegion s.inputRegion) (s.readRegion s.adRegion)).bind
      fun c => .pure (c, .ok))

/-- AEAD_DEC, counted (R215). -/
def countedAeadDec (s : State) : Counted (Host.Outcome State Fault Refusal) :=
  s.countedStore s.decError
    ((Counted.openMessage s.dk (s.readRegion s.nonceRegion) (s.readRegion s.inputRegion) (s.readRegion s.adRegion)).bind
      fun r => .pure (r.2, if r.1 then .ok else .auth))

/-- BC_ENC, counted (42_cipher.md R175). -/
def countedBcEnc (s : State) : Counted (Host.Outcome State Fault Refusal) :=
  s.countedStore (s.cipherError 16 16 16)
    ((Counted.encrypt s.dk (s.blockAtPtr s.regs.auxPtr 0) (s.blockAtPtr s.regs.srcPtr 0)).bind fun c =>
      .pure (c.bytes, .ok))

/-- BC_DUAL_KS, counted (R176). -/
def countedBcDualKs (s : State) : Counted (Host.Outcome State Fault Refusal) :=
  s.countedStore (s.cipherError 32 16 32)
    ((Counted.dualKeystream s.dk (s.blockAtPtr s.regs.auxPtr 0) (s.blockAtPtr s.regs.auxPtr 16)
      (s.blockAtPtr s.regs.srcPtr 0)).bind fun k => .pure (k.1.bytes ++ k.2.bytes, .ok))

/-- BC_TAG1, counted (R177). -/
def countedBcTag1 (s : State) : Counted (Host.Outcome State Fault Refusal) :=
  s.countedStore (s.cipherError 16 16 16)
    ((Counted.tagAcc1 s.dk (s.blockAtPtr s.regs.dstPtr 0) (s.blockAtPtr s.regs.auxPtr 0)
      (s.blockAtPtr s.regs.srcPtr 0)).bind fun t => .pure (t.bytes, .ok))

/-- BC_TAG2, counted (R178). -/
def countedBcTag2 (s : State) : Counted (Host.Outcome State Fault Refusal) :=
  s.countedStore (s.cipherError 32 32 16)
    ((Counted.tagAcc2 s.dk (s.blockAtPtr s.regs.dstPtr 0) (s.blockAtPtr s.regs.auxPtr 0) (s.blockAtPtr s.regs.auxPtr 16)
      (s.blockAtPtr s.regs.srcPtr 0) (s.blockAtPtr s.regs.srcPtr 16)).bind fun t => .pure (t.bytes, .ok))

/-- Every command with its E evaluations counted. The meanings of KEY_SETUP and of the Q_* commands call no cipher. -/
def execCounted (i : Instr) (s : State) : Counted (Host.Outcome State Fault Refusal) :=
  match i with
  | .keySetup v => .pure (execKeySetup v s)
  | .aeadEnc => countedAeadEnc s
  | .aeadDec => countedAeadDec s
  | .bcEnc => countedBcEnc s
  | .bcDualKs => countedBcDualKs s
  | .bcTag1 => countedBcTag1 s
  | .bcTag2 => countedBcTag2 s
  | .qLoad1 => .pure (execQLoad1 s)
  | .qLoad2 => .pure (execQLoad2 s)
  | .qStore1 => .pure (execQStore1 s)
  | .qStore2 => .pure (execQStore2 s)
  | .qOrtho => .pure (execQOrtho s)
  | .qAddrk => .pure (execQAddrk s)
  | .qSub => .pure (execQSub s)
  | .qSr => .pure (execQSr s)
  | .qMc => .pure (execQMc s)

/-- The number of E evaluations that a command makes on a state (R278). -/
def cipherEvaluations (s : State) (i : Instr) : Nat := (execCounted i s).calls

end Sys2Proof.Machine
end

