-- ==== Sys2Proof/Machine/Script.lean ====
section
/-! DEFINITION. The host-script syntax of the spec and its pseudo-instructions, as turns of the machine (30_encoding.md
R79, R80). -/

namespace Sys2Proof.Machine

/-- The byte offset of a register (R21); 0x30 stands for the reserved ones. -/
def Reg.offset : Reg → Nat
  | .cmd => 0x00
  | .status => 0x04
  | .keyPtr => 0x08
  | .keyLen => 0x0C
  | .noncePtr => 0x10
  | .nonceLen => 0x14
  | .adPtr => 0x18
  | .adLen => 0x1C
  | .srcPtr => 0x20
  | .srcLen => 0x24
  | .dstPtr => 0x28
  | .auxPtr => 0x2C
  | .reserved => 0x30

/-- `WR <REG>, <value>` (R79). -/
def scriptWr (r : Reg) (v : Word) : List Turn := [.host (.regWrite r.offset 4 v)]

/-- `RD <REG>` (R79). -/
def scriptRd (r : Reg) : List Turn := [.host (.regRead r.offset 4)]

/-- `CMD <MNEMONIC>`, and `CMD KEY_SETUP.FAST` for the V bit (R79). -/
def scriptCmd (i : Instr) : List Turn := scriptWr .cmd (encode i)

/-- `MEMW <addr>, <bytes>` (R79). -/
def scriptMemw (a : Nat) (v : List Byte) : List Turn := [.host (.memWrite a v)]

/-- `MEMR <addr>, <n>` (R79). -/
def scriptMemr (a n : Nat) : List Turn := [.host (.memRead a n)]

/-- `WAIT` (R80): reads of STATUS until BUSY reads 0. The core's step comes first, so one read is enough (log entry 5). -/
def scriptWait : List Turn := .core :: scriptRd .status

/-- `RUN <MNEMONIC>` (R80). -/
def scriptRun (i : Instr) : List Turn := scriptCmd i ++ scriptWait

/-- `SETKEY <p>` (R80). -/
def scriptSetKey (p : Word) : List Turn := scriptWr .keyPtr p ++ scriptWr .keyLen 32

/-- `SETNONCE <p>` (R80). -/
def scriptSetNonce (p : Word) : List Turn := scriptWr .noncePtr p ++ scriptWr .nonceLen 15

/-- `SETAD <p>, <n>` (R80). -/
def scriptSetAd (p n : Word) : List Turn := scriptWr .adPtr p ++ scriptWr .adLen n

/-- `SETSRC <p>, <n>` (R80). -/
def scriptSetSrc (p n : Word) : List Turn := scriptWr .srcPtr p ++ scriptWr .srcLen n

/-- `SETDST <p>` (R80). -/
def scriptSetDst (p : Word) : List Turn := scriptWr .dstPtr p

/-- `SETAUX <p>` (R80). -/
def scriptSetAux (p : Word) : List Turn := scriptWr .auxPtr p

end Sys2Proof.Machine
end

