-- ==== Sys2Proof/Machine/Sequencer.lean ====
section
/-! DEFINITION. The phases of the AEAD state machine (43_aead.md R212 and R213): the order in which a hardware sequencer
reads and writes M inside the one atomic step. The commands themselves are in Machine/Aead.lean, as functions of the
memory at the start of the step; 20_memory.md R61 says that the two agree. -/

namespace Sys2Proof.Machine

/-- Blocks j, j+1, … of a message of `len` bytes, `k` of them, strictly in ascending order: block j is read at src + 16j,
XORed with its keystream block and written at dst + 16j before block j+1 is read (R212 (4), R213 (2)). -/
def streamBlocks (dk : Vector Block 17) (g : Block) (nonce : List Byte) (src dst len : Nat) :
    Nat → Nat → Memory → Memory
  | 0, _, m => m
  | k + 1, j, m =>
    let c := m.readBytes (src + 16 * j) (min 16 (len - 16 * j))
    streamBlocks dk g nonce src dst len k (j + 1)
      (m.writeBytes (dst + 16 * j) (xorBytes c (keystreamBlock dk g nonce j).bytes))

/-- The phases of AEAD_ENC (R212): absorb the AD and then the plaintext, compute G, stream the blocks, write G after
them. -/
def sequenceEnc (s : State) : Memory :=
  let len := s.regs.srcLen.toNat
  let n := s.readRegion s.nonceRegion
  let accAd := absorb s.dk zeroBlock (s.readRegion s.adRegion) adFull adFinal
  let acc := absorb s.dk accAd (s.readRegion s.inputRegion) msgFull msgFinal
  let g := tagOf s.dk n acc
  let m := streamBlocks s.dk g n s.regs.srcPtr.toNat s.regs.dstPtr.toNat len (chunkCount len) 0 s.mem
  m.writeBytes (s.regs.dstPtr.toNat + len) g.bytes

/-- The phases of AEAD_DEC (R213): keep the received tag, stream the blocks, absorb the AD and then the recovered
plaintext read back from DST, compute G, compare, and on a mismatch write zeros over the output. -/
def sequenceDec (s : State) : Bool × Memory :=
  let len := s.regs.srcLen.toNat - 16
  let dst := s.regs.dstPtr.toNat
  let n := s.readRegion s.nonceRegion
  let r := s.mem.readBlock (s.regs.srcPtr.toNat + len)
  let m := streamBlocks s.dk r n s.regs.srcPtr.toNat dst len (chunkCount len) 0 s.mem
  let accAd := absorb s.dk zeroBlock (m.readBytes s.regs.adPtr.toNat s.regs.adLen.toNat) adFull adFinal
  let acc := absorb s.dk accAd (m.readBytes dst len) msgFull msgFinal
  let g := tagOf s.dk n acc
  if g = r then (true, m) else (false, m.writeBytes dst (zeros len))

end Sys2Proof.Machine
end

