-- ==== Sys2Proof/Safety.lean ====
section
/-! DEFINITION. What counts as a good state and a safe run, in the terms that claims use. -/

namespace Sys2Proof.Machine

/-- The state carries no mark FAULT: the premise that a claim about a program must take (60_exceptions.md R255). -/
def State.unmarked (s : State) : Prop := s.fault = none

/-- What every reachable state satisfies: M has its canonical form and lies below MEM_SIZE; ERR is 0 while a command is
pending (10_state.md R22), and the host then still owes the read of STATUS of 70_reset_and_hazards.md R273; DK is a key
schedule whenever KEY_VALID says so (R28, 41_tweakey.md R147); the fast datapath is selected only by a successful KEY_SETUP (R29). -/
structure State.Inv (s : State) : Prop where
  mem_wf : s.mem.wf s.cfg.memSize
  busy_err : s.busy = true → s.err = .ok
  busy_awaiting : s.busy = true → s.awaiting = true
  key_schedule : s.keyValid = true → ∃ key : List Byte, key.length = 32 ∧ s.dk = deriveK key
  fast_keyed : s.variant = .fast → s.keyValid = true

/-- The states that steps lead to from `s`. -/
inductive Reaches (s : State) : State → Prop where
  | refl : Reaches s s
  | step {t u : State} (h : Reaches s t) (hu : Sys2Proof.Machine.step t = .next u) : Reaches s u

/-- A safe run: every state the machine reaches from `s` is unmarked, and none of its steps stops. -/
def State.safeRun (s : State) : Prop :=
  ∀ t, Reaches s t → t.unmarked ∧ ∃ u, Sys2Proof.Machine.step t = .next u

end Sys2Proof.Machine
end

