-- ==== Sys2Proof/Certificates/Slice0/Obligations.lean ====
section
/-! DEFINITION. The statements for the provers. Each docstring names the rule of the spec it formalises, or says that the
statement is about a choice of the model and names the log entry. -/

open Sys2Proof Sys2Proof.Machine

namespace Sys2Proof.Statements

/-! ### The terms of the statements: the spec's conditions in plain arithmetic, apart from the model's own checks -/

/-- A region of n bytes at a pointer lies in M (20_memory.md R55). -/
abbrev Fits (s : State) (p : Word) (n : Nat) : Prop := n = 0 ∨ p.toNat + n ≤ s.cfg.memSize

/-- Two regions overlap (20_memory.md R56). -/
abbrev Meets (p : Word) (n : Nat) (q : Word) (m : Nat) : Prop :=
  0 < n ∧ 0 < m ∧ p.toNat < q.toNat + m ∧ q.toNat < p.toNat + n

/-- The four regions of an AEAD command with an output of n bytes lie in M (R250). -/
abbrev AeadFits (s : State) (n : Nat) : Prop :=
  Fits s s.regs.noncePtr 15 ∧ Fits s s.regs.adPtr s.regs.adLen.toNat ∧ Fits s s.regs.srcPtr s.regs.srcLen.toNat
    ∧ Fits s s.regs.dstPtr n

/-- An output of n bytes overlaps the nonce, the AD, or the input other than exactly in place (R251). -/
abbrev AeadMeets (s : State) (n : Nat) : Prop :=
  Meets s.regs.dstPtr n s.regs.noncePtr 15 ∨ Meets s.regs.dstPtr n s.regs.adPtr s.regs.adLen.toNat
    ∨ (Meets s.regs.dstPtr n s.regs.srcPtr s.regs.srcLen.toNat ∧ s.regs.dstPtr ≠ s.regs.srcPtr)

/-- The three operands of AEAD_ENC in M: nonce, AD, plaintext. -/
abbrev nonceOf (s : State) : List Byte := s.mem.readBytes s.regs.noncePtr.toNat 15
/-- The AD bytes. -/
abbrev adOf (s : State) : List Byte := s.mem.readBytes s.regs.adPtr.toNat s.regs.adLen.toNat
/-- The AEAD input bytes. -/
abbrev inputOf (s : State) : List Byte := s.mem.readBytes s.regs.srcPtr.toNat s.regs.srcLen.toNat

/-- The core moves next: the agenda is empty or its head is the core's turn. -/
abbrev CoreNext (s : State) : Prop := s.agenda = [] ∨ ∃ rest, s.agenda = .core :: rest

/-- A Q_* command. -/
def isEngine : Instr → Bool
  | .qLoad1 | .qLoad2 | .qStore1 | .qStore2 | .qOrtho | .qAddrk | .qSub | .qSr | .qMc => true
  | .keySetup _ | .aeadEnc | .aeadDec | .bcEnc | .bcDualKs | .bcTag1 | .bcTag2 => false

/-- The index table h of R141. -/
def hIndex : List Nat := [1, 6, 11, 12, 5, 10, 15, 0, 9, 14, 3, 4, 13, 2, 7, 8]

/-- The four bytes of a number below 2^32, most significant first. -/
def bigEndian (j : Nat) : List Byte :=
  [BitVec.ofNat 8 (j / 16777216), BitVec.ofNat 8 (j / 65536 % 256), BitVec.ofNat 8 (j / 256 % 256), BitVec.ofNat 8 (j % 256)]

/-- A function applied n times. -/
def times (f : Block → Block) : Nat → Block → Block
  | 0, x => x
  | n + 1, x => f (times f n x)

/-- The bytes n, n+1, … of the spec's examples. -/
def count (a n : Nat) : List Byte := (List.range n).map fun i => BitVec.ofNat 8 (a + i)

/-- A block of the spec's examples: sixteen counting bytes. -/
def countBlock (a : Nat) : Block := blockAt (count a 16) 0

end Sys2Proof.Statements

open Sys2Proof.Statements

/-! ### Encoding -/

/-- The words of R74, written out bit by bit from its rows, decode to their commands. -/
def Obligations.HandWrittenWordsDecode : Prop :=
  decodeWord 0b00000000000000000000000000000001 = .ok (.keySetup false) ∧
  decodeWord 0b00000000000000000000000100000001 = .ok (.keySetup true) ∧
  decodeWord 0b00000000000000000000000000010000 = .ok .aeadEnc ∧
  decodeWord 0b00000000000000000000000000010001 = .ok .aeadDec ∧
  decodeWord 0b00000000000000000000000000100011 = .ok .bcTag2 ∧
  decodeWord 0b00000000000000000000000000110101 = .ok .qAddrk ∧
  decodeWord 0b00000000000000000000000000111000 = .ok .qMc

/-- The decoder reads a well-formed command from a word exactly when the word is that command's own: decoding an encoded
command gives it back, and no second word decodes to it (30_encoding.md R71, R74). -/
def Obligations.DecodeEncodeAgree : Prop :=
  ∀ (i : Instr) (w : Word), i.wf = true → (decodeWord w = .ok i ↔ w = encode i)

/-- Every word is either one row of R74 or illegal under R75, never both and never two rows (30_encoding.md R76): the rows
that a word matches are none or exactly one; it decodes to a command when there is one, and is illegal by the three
checks of R75 when there is none. -/
def Obligations.EveryWordIsOneRowOrIllegal : Prop :=
  ∀ w : Word,
    ((∃ r, opcodeTable.filter (rowMatches w) = [r]) ∧ (∃ i, decodeWord w = .ok i) ∧ wordLegal w = true) ∨
    (opcodeTable.filter (rowMatches w) = [] ∧ (∃ e, decodeWord w = .error e) ∧ wordLegal w = false)

/-- An illegal word finishes with ILLEGAL and changes no state other than STATUS (30_encoding.md R75): (a) its operation
code is not one of R74, or (b) a reserved bit is set, or (c) V is set beside another operation code than 0x01. (The turn
of the core is taken off the model's agenda.) -/
def Obligations.IllegalWordFinishesIllegal : Prop :=
  ∀ s : State, s.fault = none → CoreNext s → s.busy = true →
    (s.pending.extractLsb' 0 8 ∉ ([0x01, 0x10, 0x11, 0x20, 0x21, 0x22, 0x23, 0x30, 0x31, 0x32, 0x33, 0x34, 0x35, 0x36,
        0x37, 0x38] : List Byte) ∨
      s.pending.extractLsb' 9 23 ≠ 0 ∨ (s.pending.getLsbD 8 = true ∧ s.pending.extractLsb' 0 8 ≠ (0x01 : Byte))) →
    step s = .next { s with err := .illegal, busy := false, agenda := s.agenda.tail }

/-! ### The step -/

/-- When BUSY = 1, the core moves next and PENDING decodes to a well-formed command, a step is that command's meaning;
what the step adds is that the turn is taken off the agenda (10_state.md R19, R32). -/
def Obligations.StepRunsDecodedCommand : Prop :=
  ∀ (s : State) (i : Instr), i.wf = true → s.fault = none → CoreNext s → s.busy = true → decodeWord s.pending = .ok i →
    step s = exec i { s with agenda := s.agenda.tail }

/-- The step after `withFetchWord` runs the command of that word (the model's own convention, log entry 6). -/
def Obligations.PlacedWordRunsNext : Prop :=
  ∀ (s : State) (i : Instr), i.wf = true →
    step (s.withFetchWord 32 (encode i).toNat) = exec i (s.withFetchWord 32 (encode i).toNat) ∧
    (s.withFetchWord 32 (encode i).toNat).pending = encode i ∧ (s.withFetchWord 32 (encode i).toNat).regs = s.regs ∧
    (s.withFetchWord 32 (encode i).toNat).mem = s.mem ∧ (s.withFetchWord 32 (encode i).toNat).q = s.q

/-- The core's step is enabled only while BUSY = 1: the core's turn changes nothing while BUSY = 0 (10_state.md R19 (2),
60_exceptions.md R261; that such a turn is a step at all is the model's choice, log entry 5). -/
def Obligations.IdleCoreChangesNothing : Prop :=
  ∀ s : State, s.fault = none → CoreNext s → s.busy = false → step s = .next { s with agenda := s.agenda.tail }

/-! ### Reset -/

/-- The state after reset (70_reset_and_hazards.md R270): every register reads 0, STATUS is 0, Q is 0, KEY_VALID and
VARIANT are 0, PENDING is 0 and FAULT is clear; the engine state holds the orthogonal form of two zero blocks, and a reset
does not change M. Nothing is said of the value of DK, of M or of MEM_SIZE, which the rule leaves open. -/
def Obligations.ResetValues : Prop :=
  (∀ r : Reg, State.reset.readReg r = 0) ∧ State.reset.status = 0x00000000 ∧ State.reset.err = .ok ∧
  State.reset.busy = false ∧ State.reset.keyValid = false ∧ State.reset.variant = .constantTime ∧
  State.reset.pending = 0 ∧ State.reset.q = ⟨0, 0, 0, 0, 0, 0, 0, 0⟩ ∧ State.reset.fault = none ∧
  unpackA State.reset.q = zeroBlock ∧ unpackB State.reset.q = zeroBlock ∧ (∀ s : State, s.applyReset.mem = s.mem)

/-- A reset applied at any moment gives the state of R270 at once, leaves M and MEM_SIZE unchanged, and discards a pending
command (70_reset_and_hazards.md R271; FAULT is cleared as R270 says, log entry 9, and with it the duty to read STATUS,
log entry 17). -/
def Obligations.ResetAppliesAtOnce : Prop :=
  ∀ (s : State) (rest : List Turn), s.agenda = .reset :: rest →
    ∃ t, step s = .next t ∧ (∀ r : Reg, t.readReg r = 0) ∧ t.busy = false ∧ t.pending = 0 ∧ t.keyValid = false ∧
      t.variant = .constantTime ∧ t.q = ⟨0, 0, 0, 0, 0, 0, 0, 0⟩ ∧ t.fault = none ∧ t.awaiting = false ∧
      t.mem = s.mem ∧ t.cfg = s.cfg ∧ t.agenda = rest ∧ t.seen = s.seen

/-! ### The invariant -/

/-- Every step keeps the invariant of Safety.lean (M in canonical form below MEM_SIZE; ERR = 0 and the read of STATUS
of R273 owed while BUSY = 1; DK a key schedule whenever KEY_VALID = 1; the fast datapath only with a key) and never changes
MEM_SIZE. -/
def Obligations.StepKeepsInvariant : Prop :=
  ∀ s t : State, s.Inv → step s = .next t → t.Inv ∧ t.cfg = s.cfg

/-- Every launch state whose memory has the canonical form satisfies the invariant, and so does the state after reset. -/
def Obligations.LaunchMeetsInvariant : Prop :=
  (∀ (c : Config) (m : Memory) (turns : List Turn), m.wf c.memSize → (State.launch c m turns).Inv) ∧ State.reset.Inv

/-! ### All commands -/

/-- Every command completes in one step, with BUSY cleared; a descriptor register, PENDING, MEM_SIZE, FAULT, the agenda,
the host's readings and its duty to read STATUS are the same after it (10_state.md R24, 60_exceptions.md R240). -/
def Obligations.CommandsCompleteAndKeepRegisters : Prop :=
  ∀ (i : Instr) (s : State), ∃ t, exec i s = .next t ∧ t.busy = false ∧ t.regs = s.regs ∧ t.pending = s.pending ∧
    t.cfg = s.cfg ∧ t.fault = s.fault ∧ t.awaiting = s.awaiting ∧ t.agenda = s.agenda ∧ t.seen = s.seen

/-- DK, KEY_VALID and VARIANT are written by a successful KEY_SETUP and by no other command, and no command clears
KEY_VALID (10_state.md R27, R28, R29; 41_tweakey.md R147). -/
def Obligations.KeyStateWrittenOnlyByKeySetup : Prop :=
  ∀ (i : Instr) (s t : State), exec i s = .next t →
    ((t.dk ≠ s.dk ∨ t.keyValid ≠ s.keyValid ∨ t.variant ≠ s.variant) → (∃ v, i = .keySetup v) ∧ t.err = .ok) ∧
    (s.keyValid = true → t.keyValid = true)

/-- A command writes no byte of M outside its output region of R78, whose address and length the model's `outputRegion`
computes from the registers at the start of the step (30_encoding.md R78). -/
def Obligations.StoresStayInOutputRegion : Prop :=
  ∀ (i : Instr) (s t : State), exec i s = .next t → ∀ a : Nat,
    (∀ r, s.outputRegion i = some r → a < r.ptr.toNat ∨ r.ptr.toNat + r.len ≤ a) → t.mem.read a = s.mem.read a

/-- Which error each command reports, and that it reports no other (60_exceptions.md R242): the first check of the
command's row that applies. -/
def Obligations.ErrorPriority : Prop :=
  (∀ (s : State), s.busy = true → (∃ e, decodeWord s.pending = .error e) →
    ∃ t, coreStep s = .next t ∧ t.err = .illegal) ∧
  (∀ (s : State) (v : Bool), ∃ t, exec (.keySetup v) s = .next t ∧
    t.err = if s.regs.keyLen ≠ 32 then .keySize else if ¬ Fits s s.regs.keyPtr 32 then .range else .ok) ∧
  (∀ s : State, ∃ t, exec .aeadEnc s = .next t ∧
    t.err = if s.keyValid = false then .noKey else if s.regs.nonceLen ≠ 15 then .nonceSize
      else if ¬ AeadFits s (s.regs.srcLen.toNat + 16) then .range
      else if AeadMeets s (s.regs.srcLen.toNat + 16) then .overlap else .ok) ∧
  (∀ s : State, ∃ t, exec .aeadDec s = .next t ∧
    t.err = if s.keyValid = false then .noKey else if s.regs.nonceLen ≠ 15 then .nonceSize
      else if s.regs.srcLen.toNat < 16 then .auth
      else if ¬ AeadFits s (s.regs.srcLen.toNat - 16) then .range
      else if AeadMeets s (s.regs.srcLen.toNat - 16) then .overlap
      else if openOk s.dk (nonceOf s) (inputOf s) (adOf s) then .ok else .auth) ∧
  (∀ s : State, ∃ t, exec .bcEnc s = .next t ∧
    t.err = if s.keyValid = false then .noKey
      else if ¬ (Fits s s.regs.auxPtr 16 ∧ Fits s s.regs.srcPtr 16 ∧ Fits s s.regs.dstPtr 16) then .range else .ok) ∧
  (∀ s : State, ∃ t, exec .bcDualKs s = .next t ∧
    t.err = if s.keyValid = false then .noKey
      else if ¬ (Fits s s.regs.auxPtr 32 ∧ Fits s s.regs.srcPtr 16 ∧ Fits s s.regs.dstPtr 32) then .range else .ok) ∧
  (∀ s : State, ∃ t, exec .bcTag1 s = .next t ∧
    t.err = if s.keyValid = false then .noKey
      else if ¬ (Fits s s.regs.auxPtr 16 ∧ Fits s s.regs.srcPtr 16 ∧ Fits s s.regs.dstPtr 16) then .range else .ok) ∧
  (∀ s : State, ∃ t, exec .bcTag2 s = .next t ∧
    t.err = if s.keyValid = false then .noKey
      else if ¬ (Fits s s.regs.auxPtr 32 ∧ Fits s s.regs.srcPtr 32 ∧ Fits s s.regs.dstPtr 16) then .range else .ok) ∧
  (∀ s : State, ∃ t, exec .qLoad1 s = .next t ∧ t.err = if ¬ Fits s s.regs.srcPtr 16 then .range else .ok) ∧
  (∀ s : State, ∃ t, exec .qLoad2 s = .next t ∧ t.err = if ¬ Fits s s.regs.srcPtr 32 then .range else .ok) ∧
  (∀ s : State, ∃ t, exec .qStore1 s = .next t ∧ t.err = if ¬ Fits s s.regs.dstPtr 16 then .range else .ok) ∧
  (∀ s : State, ∃ t, exec .qStore2 s = .next t ∧ t.err = if ¬ Fits s s.regs.dstPtr 32 then .range else .ok) ∧
  (∀ s : State, ∃ t, exec .qAddrk s = .next t ∧ t.err = if ¬ Fits s s.regs.auxPtr 32 then .range else .ok) ∧
  (∀ (i : Instr) (s : State), i = .qOrtho ∨ i = .qSub ∨ i = .qSr ∨ i = .qMc → ∃ t, exec i s = .next t ∧ t.err = .ok)

/-- What a failed command leaves (60_exceptions.md R243): DK, KEY_VALID, VARIANT and the descriptor registers as they
were; M too, but for an AEAD_DEC that fails on the tag comparison, whose whole output region holds zeros; and Q, for a
Q_* command and after ILLEGAL. -/
def Obligations.FailedCommandEffects : Prop :=
  (∀ s : State, s.busy = true → (∃ e, decodeWord s.pending = .error e) →
    coreStep s = .next { s with err := .illegal, busy := false }) ∧
  ∀ (i : Instr) (s t : State), exec i s = .next t → t.err ≠ .ok →
    t.dk = s.dk ∧ t.keyValid = s.keyValid ∧ t.variant = s.variant ∧ t.regs = s.regs ∧
    (isEngine i = true → t.q = s.q) ∧
    t.mem = if i = .aeadDec ∧ t.err = .auth ∧ 16 ≤ s.regs.srcLen.toNat
      then s.mem.writeBytes s.regs.dstPtr.toNat (List.replicate (s.regs.srcLen.toNat - 16) 0) else s.mem

/-- A KEY_SETUP, BC_* or AEAD_* command, failed or not, ends with eight fresh draws in Q and reads nothing of the Q before
it: the draws are the next eight of the free words, and from any other Q the outcome is the same (10_state.md R31; the
draw counter is the model's own, log entry 3, and the free words have no value that a proof could use). -/
def Obligations.KeyedCommandsForgetQ : Prop :=
  ∀ (i : Instr) (s : State) (q : EngineWords), isEngine i = false →
    exec i { s with q := q } = exec i s ∧
    ∃ t, exec i s = .next t ∧ t.draws = s.draws + 8 ∧
      t.q = ⟨Config.freeWord s.draws, Config.freeWord (s.draws + 1), Config.freeWord (s.draws + 2),
        Config.freeWord (s.draws + 3), Config.freeWord (s.draws + 4), Config.freeWord (s.draws + 5),
        Config.freeWord (s.draws + 6), Config.freeWord (s.draws + 7)⟩

/-- VARIANT changes no result of any command: from the other datapath the outcome is the same but for VARIANT itself
(42_cipher.md R171, 10_state.md R29). The rule says so of the outputs in M and of STATUS. That Q, which 10_state.md R31
leaves unspecified after a keyed command, is equal too is the model's choice: its draws depend on the draw counter alone
(log entry 3), and both datapaths compute E by the byte-level rounds (log entry 11). -/
def Obligations.VariantChangesNoResult : Prop :=
  ∀ (i : Instr) (s t : State) (v : Variant), exec i s = .next t →
    ∃ u, exec i { s with variant := v } = .next u ∧ { u with variant := t.variant } = t

/-- DK is unobservable before the first successful KEY_SETUP: with KEY_VALID = 0, a step from any other DK is the same but
for DK itself, and so are the machine's stops (10_state.md R27). -/
def Obligations.DkUnobservableWithoutKey : Prop :=
  ∀ (s : State) (d : Vector Block 17), s.keyValid = false →
    (∀ t, step s = .next t → ∃ u, step { s with dk := d } = .next u ∧ { u with dk := t.dk } = t) ∧
    (∀ f, step s = .fault f → step { s with dk := d } = .fault f)

/-! ### KEY_SETUP -/

/-- KEY_SETUP (41_tweakey.md R148): the 32 bytes at KEY_PTR give DK, KEY_VALID is set and V gives VARIANT; KEY_LEN ≠ 32
gives KEY_SIZE, and a key outside M gives RANGE, with the key state unchanged. Nothing else changes but STATUS and Q,
whose new value the statement leaves open. The words and the example are the rule's. -/
def Obligations.KeySetupResult : Prop :=
  (∀ (s : State) (v : Bool), ∃ q d, exec (.keySetup v) s = .next (
    if s.regs.keyLen = 32 ∧ s.regs.keyPtr.toNat + 32 ≤ s.cfg.memSize then
      { s with dk := deriveK (s.mem.readBytes s.regs.keyPtr.toNat 32), keyValid := true,
               variant := if v then .fast else .constantTime, err := .ok, busy := false, q := q, draws := d }
    else { s with err := if s.regs.keyLen = 32 then .range else .keySize, busy := false, q := q, draws := d })) ∧
  decodeWord 0x00000001 = .ok (.keySetup false) ∧ decodeWord 0x00000101 = .ok (.keySetup true) ∧
  ((deriveK (count 0 32))[0]).bytes = [0x11, 0x12, 0x14, 0x18, 0x3f, 0x3f, 0x3f, 0x3f, 0x10, 0x10, 0x10, 0x10, 0x10, 0x10,
    0x10, 0x10] ∧
  statusWord .ok false true .constantTime = 0x00000200

/-- The permutation H moves bytes by the table h, whose index map has the two 8-cycles of the rule; applied eight times it
is the identity, and applied fewer times it is not (41_tweakey.md R141). -/
def Obligations.PermutationHasOrderEight : Prop :=
  (∀ (t : Block) (i : Nat), i < 16 → (permuteH t).bytes.getD i 0 = t.bytes.getD (hIndex.getD i 0) 0) ∧
  (∀ t : Block, times permuteH 8 t = t) ∧
  [0, 1, 6, 15, 8, 9, 14, 7].map (hIndex.getD · 0) = [1, 6, 15, 8, 9, 14, 7, 0] ∧
  [2, 11, 4, 5, 10, 3, 12, 13].map (hIndex.getD · 0) = [11, 4, 5, 10, 3, 12, 13, 2] ∧
  (∀ n : Nat, 0 < n → n < 8 → ∃ t : Block, times permuteH n t ≠ t)

/-- The two byte shifts, bit by bit, and that LFSR3 is the inverse of LFSR2 (41_tweakey.md R142, R143). -/
def Obligations.LfsrsAreInverse : Prop :=
  (∀ (x : Byte) (k : Nat), k < 8 → (lfsr2Byte x).getLsbD k = if k = 0 then x.getLsbD 7 ^^ x.getLsbD 5 else x.getLsbD (k - 1)) ∧
  (∀ (x : Byte) (k : Nat), k < 8 → (lfsr3Byte x).getLsbD k = if k = 7 then x.getLsbD 0 ^^ x.getLsbD 6 else x.getLsbD (k + 1)) ∧
  (∀ x : Byte, lfsr3Byte (lfsr2Byte x) = x ∧ lfsr2Byte (lfsr3Byte x) = x)

/-- DK[i] in closed form (41_tweakey.md R145): the tk2 lane through i rounds of LFSR2 and H, the tk3 lane through i rounds
of LFSR3 and H, and the round constant i, where tk2 is the key's bytes 16..31 and tk3 its bytes 0..15. -/
def Obligations.DerivedKeyClosedForm : Prop :=
  ∀ (key : List Byte) (i : Nat) (h : i < 17), (deriveK key)[i] =
    ((times (fun t => permuteH (lfsr2 t)) i (blockAt key 16)).xor
      (times (fun t => permuteH (lfsr3 t)) i (blockAt key 0))).xor (roundConstant (rcon.getD i 0))

/-- STK[i] = DK[i] ⊕ H^i(tweak), for the seventeen sub-tweak-keys, so that STK[i] ⊕ DK[i] = STK[i+8] ⊕ DK[i+8]
(41_tweakey.md R146). -/
def Obligations.SubTweakKeysClosedForm : Prop :=
  ∀ (dk : Vector Block 17) (t : Block), (deriveSTK dk t).length = 17 ∧
    (∀ (i : Nat) (h : i < 17), (deriveSTK dk t)[i]? = some (dk[i].xor (times permuteH i t))) ∧
    (∀ (i : Nat) (h : i ≤ 8), ∃ x y, (deriveSTK dk t)[i]? = some x ∧ (deriveSTK dk t)[i + 8]? = some y ∧
      x.xor dk[i] = y.xor dk[i + 8])

/-! ### The round functions and the block cipher -/

/-- The table of R102 is the S-box of R101: the affine map of the multiplicative inverse in GF(2^8), plus 0x63, the
inverse of 0 being 0; it has the corner values and no fixed point that R102 names, and SB applies it to every byte. -/
def Obligations.SboxIsAffineInverse : Prop :=
  (∀ x : Byte, (∃ y : Byte, (x ≠ 0 → gfMul x y = 1) ∧ (x = 0 → y = 0) ∧ sbox x = sboxAffine y ^^^ 0x63) ∧ sbox x ≠ x) ∧
  sbox 0x00 = 0x63 ∧ sbox 0x01 = 0x7c ∧ sbox 0xff = 0x16 ∧ (∀ b : Block, (subBytes b).bytes = b.bytes.map sbox)

/-- The row shift in index form (40_engine.md R103): row r of column c of the result is row r of column (c + r) mod 4. -/
def Obligations.RowShiftIndexForm : Prop :=
  ∀ (b : Block) (r c : Nat), r < 4 → c < 4 →
    (shiftRows b).bytes.getD (r + 4 * c) 0 = b.bytes.getD (r + 4 * ((c + r) % 4)) 0

/-- E is a permutation of the blocks for each DK and tweak (42_cipher.md R170, derived there: every step is invertible). -/
def Obligations.CipherIsPermutation : Prop :=
  ∀ (dk : Vector Block 17) (t : Block), Function.Bijective (encryptBlock dk t)

/-- The layout of the orthogonal form (40_engine.md R107): bit k of byte s[r][c] of lane A is bit 8r + 2c of word k, and of
lane B bit 8r + 2c + 1. -/
def Obligations.OrthogonalLayout : Prop :=
  ∀ (a b : Block) (r c k : Nat), r < 4 → c < 4 → k < 8 →
    let q := pack2 a b
    let w := [q.q0, q.q1, q.q2, q.q3, q.q4, q.q5, q.q6, q.q7].getD k 0
    w.getLsbD (8 * r + 2 * c) = (a.bytes.getD (r + 4 * c) 0).getLsbD k ∧
    w.getLsbD (8 * r + 2 * c + 1) = (b.bytes.getD (r + 4 * c) 0).getLsbD k

/-- ORTHO is an involution (40_engine.md R108; 90_conflicts.md C1). -/
def Obligations.OrthoIsInvolution : Prop := ∀ q : EngineWords, ortho (ortho q) = q

/-- Unpacking inverts packing in both lanes, and packing inverts unpacking (40_engine.md R109, R110). -/
def Obligations.UnpackInvertsPack : Prop :=
  (∀ a b : Block, unpackA (pack2 a b) = a ∧ unpackB (pack2 a b) = b) ∧ (∀ q : EngineWords, pack2 (unpackA q) (unpackB q) = q)

/-- The word-level round functions are the byte-level ones on both lanes at once, and a word-wise XOR with packed keys
adds each lane's key (40_engine.md R111 to R114). -/
def Obligations.EngineActsOnLanes : Prop :=
  ∀ a b : Block,
    engineSub (pack2 a b) = pack2 (subBytes a) (subBytes b) ∧
    engineShiftRows (pack2 a b) = pack2 (shiftRows a) (shiftRows b) ∧
    engineMixColumns (pack2 a b) = pack2 (mixColumns a) (mixColumns b) ∧
    (∀ ka kb : Block, (pack2 a b).xor (pack2 ka kb) = pack2 (addRoundKey a ka) (addRoundKey b kb))

/-- The bit-sliced datapath computes the same function as the byte-level one, in both lanes (42_cipher.md R171, R172). -/
def Obligations.BitslicedDatapathComputesE : Prop :=
  ∀ (dk : Vector Block 17) (t0 t1 a b : Block),
    bitslicedPair dk t0 t1 a b = (encryptBlock dk t0 a, encryptBlock dk t1 b)

/-! ### The engine commands -/

/-- Q_LOAD1 (40_engine.md R115): lane A loaded from SRC_PTR and lane B zeroed, or RANGE; nothing else changes. The word
and the example are the rule's. -/
def Obligations.QLoad1Result : Prop :=
  (∀ s : State, exec .qLoad1 s = .next (
    if s.regs.srcPtr.toNat + 16 ≤ s.cfg.memSize then
      { s with q := pack2 (s.mem.readBlock s.regs.srcPtr.toNat) zeroBlock, err := .ok, busy := false }
    else { s with err := .range, busy := false })) ∧
  decodeWord 0x00000030 = .ok .qLoad1 ∧
  pack1 (countBlock 0) = ⟨0x55005500, 0x55550000, 0x44444444, 0x50505050, 0, 0, 0, 0⟩

/-- Q_LOAD2 (40_engine.md R116). -/
def Obligations.QLoad2Result : Prop :=
  (∀ s : State, exec .qLoad2 s = .next (
    if s.regs.srcPtr.toNat + 32 ≤ s.cfg.memSize then
      { s with q := pack2 (s.mem.readBlock s.regs.srcPtr.toNat) (s.mem.readBlock (s.regs.srcPtr.toNat + 16)), err := .ok,
               busy := false }
    else { s with err := .range, busy := false })) ∧
  decodeWord 0x00000031 = .ok .qLoad2 ∧
  pack2 (countBlock 0) (countBlock 0x10) = ⟨0xff00ff00, 0xffff0000, 0xcccccccc, 0xf0f0f0f0, 0xaaaaaaaa, 0, 0, 0⟩

/-- Q_STORE1 (40_engine.md R117): lane A to DST_PTR, or RANGE; Q is unchanged. -/
def Obligations.QStore1Result : Prop :=
  (∀ s : State, exec .qStore1 s = .next (
    if s.regs.dstPtr.toNat + 16 ≤ s.cfg.memSize then
      { s with mem := s.mem.writeBytes s.regs.dstPtr.toNat (unpackA s.q).bytes, err := .ok, busy := false }
    else { s with err := .range, busy := false })) ∧
  decodeWord 0x00000032 = .ok .qStore1 ∧ (∀ a : Block, unpackA (pack1 a) = a)

/-- Q_STORE2 (40_engine.md R118): lane A to DST_PTR and lane B to DST_PTR + 16, or RANGE; Q is unchanged. -/
def Obligations.QStore2Result : Prop :=
  (∀ s : State, exec .qStore2 s = .next (
    if s.regs.dstPtr.toNat + 32 ≤ s.cfg.memSize then
      { s with mem := (s.mem.writeBytes s.regs.dstPtr.toNat (unpackA s.q).bytes).writeBytes (s.regs.dstPtr.toNat + 16)
                 (unpackB s.q).bytes, err := .ok, busy := false }
    else { s with err := .range, busy := false })) ∧
  decodeWord 0x00000033 = .ok .qStore2 ∧ (∀ a : Block, unpackA (pack1 a) = a ∧ unpackB (pack1 a) = zeroBlock) ∧
  (∀ a b : Block, unpackA (pack2 a b) = a ∧ unpackB (pack2 a b) = b)

/-- Q_ORTHO, Q_SUB, Q_SR and Q_MC (40_engine.md R119, R121, R122, R123): Q is transformed in place with ERR = 0, and
nothing else changes; and two Q_ORTHO in a row leave Q unchanged. -/
def Obligations.QInPlaceResults : Prop :=
  (∀ s : State, exec .qOrtho s = .next { s with q := ortho s.q, err := .ok, busy := false }) ∧
  (∀ s : State, exec .qSub s = .next { s with q := engineSub s.q, err := .ok, busy := false }) ∧
  (∀ s : State, exec .qSr s = .next { s with q := engineShiftRows s.q, err := .ok, busy := false }) ∧
  (∀ s : State, exec .qMc s = .next { s with q := engineMixColumns s.q, err := .ok, busy := false }) ∧
  (∀ s t u : State, exec .qOrtho s = .next t → exec .qOrtho t = .next u → u.q = s.q)

/-- Q_ADDRK (40_engine.md R120): word k of Q is XORed with the little-endian word at AUX_PTR + 4k, or RANGE; nothing else
changes. -/
def Obligations.QAddrkResult : Prop :=
  (∀ s : State, exec .qAddrk s = .next (
    if s.regs.auxPtr.toNat + 32 ≤ s.cfg.memSize then
      let k (i : Nat) : Word := le32 (s.mem.readBytes s.regs.auxPtr.toNat 32) (4 * i)
      { s with q := ⟨s.q.q0 ^^^ k 0, s.q.q1 ^^^ k 1, s.q.q2 ^^^ k 2, s.q.q3 ^^^ k 3, s.q.q4 ^^^ k 4, s.q.q5 ^^^ k 5,
                 s.q.q6 ^^^ k 6, s.q.q7 ^^^ k 7⟩, err := .ok, busy := false }
    else { s with err := .range, busy := false })) ∧
  decodeWord 0x00000035 = .ok .qAddrk ∧
  (∀ (m : Memory) (p : Nat), le32 (m.readBytes p 32) 28 = m.read (p + 31) ++ m.read (p + 30) ++ m.read (p + 29) ++ m.read (p + 28))

/-- One full round through the engine commands (40_engine.md R124): with A and B in the lanes and the words of PACK2(K, K')
at AUX_PTR, Q_SUB, Q_SR, Q_MC and Q_ADDRK leave ROUND(A, K) in lane A and ROUND(B, K') in lane B, with ERR = 0 and M as it
was. -/
def Obligations.EngineRoundComposition : Prop :=
  ∀ (s : State) (a b k k' : Block), s.q = pack2 a b → s.regs.auxPtr.toNat + 32 ≤ s.cfg.memSize →
    s.mem.readBytes s.regs.auxPtr.toNat 32 = keyWordBytes (pack2 k k') →
    ∃ t u v x, exec .qSub s = .next t ∧ exec .qSr t = .next u ∧ exec .qMc u = .next v ∧ exec .qAddrk v = .next x ∧
      unpackA x.q = cipherRound a k ∧ unpackB x.q = cipherRound b k' ∧ x.err = .ok ∧ x.mem = s.mem

/-! ### The block-cipher commands -/

/-- BC_ENC (42_cipher.md R175): E of the block at SRC_PTR under the tweak at AUX_PTR to DST_PTR; NO_KEY without a key, and
RANGE when a region is outside M, with M unchanged. Nothing else changes but STATUS and Q, whose new value the statement
leaves open. The word and the examples, here and below, are the rule's. -/
def Obligations.BcEncResult : Prop :=
  (∀ s : State, ∃ q d, exec .bcEnc s = .next (
    if s.keyValid = false then { s with err := .noKey, busy := false, q := q, draws := d }
    else if Fits s s.regs.auxPtr 16 ∧ Fits s s.regs.srcPtr 16 ∧ Fits s s.regs.dstPtr 16 then
      { s with mem := s.mem.writeBytes s.regs.dstPtr.toNat (encryptBlock s.dk (s.mem.readBlock s.regs.auxPtr.toNat)
                 (s.mem.readBlock s.regs.srcPtr.toNat)).bytes,
               err := .ok, busy := false, q := q, draws := d }
    else { s with err := .range, busy := false, q := q, draws := d })) ∧
  decodeWord 0x00000020 = .ok .bcEnc ∧
  (encryptBlock (deriveK (count 0 32)) zeroBlock zeroBlock).bytes =
    [0x58, 0x92, 0x66, 0xc2, 0xac, 0x17, 0xb7, 0x95, 0xdc, 0xb7, 0x07, 0x4b, 0x79, 0x2a, 0x13, 0xd4] ∧
  (encryptBlock (deriveK (zeros 32)) zeroBlock zeroBlock).bytes =
    [0xe1, 0x51, 0xf7, 0xdd, 0x8e, 0xb9, 0x98, 0x12, 0x0f, 0xcb, 0x19, 0xa3, 0x42, 0xa6, 0x77, 0x12]

/-- BC_DUAL_KS (42_cipher.md R176): E of one block under the two tweaks at AUX_PTR, the results at DST_PTR and
DST_PTR + 16. -/
def Obligations.BcDualKsResult : Prop :=
  (∀ s : State, ∃ q d, exec .bcDualKs s = .next (
    if s.keyValid = false then { s with err := .noKey, busy := false, q := q, draws := d }
    else if Fits s s.regs.auxPtr 32 ∧ Fits s s.regs.srcPtr 16 ∧ Fits s s.regs.dstPtr 32 then
      { s with mem := s.mem.writeBytes s.regs.dstPtr.toNat
                 ((encryptBlock s.dk (s.mem.readBlock s.regs.auxPtr.toNat) (s.mem.readBlock s.regs.srcPtr.toNat)).bytes
                  ++ (encryptBlock s.dk (s.mem.readBlock (s.regs.auxPtr.toNat + 16)) (s.mem.readBlock s.regs.srcPtr.toNat)).bytes),
               err := .ok, busy := false, q := q, draws := d }
    else { s with err := .range, busy := false, q := q, draws := d })) ∧
  decodeWord 0x00000021 = .ok .bcDualKs ∧
  (encryptBlock (deriveK (count 0 32)) (blockAt (0x80 :: zeros 15) 0) (nonceBlock 0x00 (count 0 15))).bytes =
    [0x90, 0x02, 0x52, 0x6d, 0x44, 0x05, 0x7e, 0x2e, 0xee, 0xcb, 0x23, 0x71, 0x1e, 0x50, 0xfe, 0xc0] ∧
  (encryptBlock (deriveK (count 0 32)) (blockAt (0x80 :: zeros 14 ++ [0x01]) 0) (nonceBlock 0x00 (count 0 15))).bytes =
    [0xc6, 0x50, 0x14, 0x97, 0xea, 0x16, 0x75, 0x82, 0xd0, 0xfc, 0x57, 0xe8, 0x46, 0x64, 0x56, 0xae]

/-- BC_TAG1 (42_cipher.md R177): the running tag at DST_PTR XORed with E of the block at SRC_PTR under the tweak at
AUX_PTR. -/
def Obligations.BcTag1Result : Prop :=
  (∀ s : State, ∃ q d, exec .bcTag1 s = .next (
    if s.keyValid = false then { s with err := .noKey, busy := false, q := q, draws := d }
    else if Fits s s.regs.auxPtr 16 ∧ Fits s s.regs.srcPtr 16 ∧ Fits s s.regs.dstPtr 16 then
      { s with mem := s.mem.writeBytes s.regs.dstPtr.toNat ((s.mem.readBlock s.regs.dstPtr.toNat).xor
                 (encryptBlock s.dk (s.mem.readBlock s.regs.auxPtr.toNat) (s.mem.readBlock s.regs.srcPtr.toNat))).bytes,
               err := .ok, busy := false, q := q, draws := d }
    else { s with err := .range, busy := false, q := q, draws := d })) ∧
  decodeWord 0x00000022 = .ok .bcTag1 ∧
  (tagAcc1 (deriveK (count 0 32)) (countBlock 0xf0) (authTweak adFull 0) (countBlock 0x40)).bytes =
    [0xe4, 0xa6, 0x8e, 0x63, 0x0a, 0xaa, 0x82, 0xf2, 0xb0, 0x22, 0xd3, 0xe8, 0x6b, 0xce, 0x9a, 0xd3]

/-- BC_TAG2 (42_cipher.md R178): two blocks under two tweaks folded into the running tag at DST_PTR. -/
def Obligations.BcTag2Result : Prop :=
  (∀ s : State, ∃ q d, exec .bcTag2 s = .next (
    if s.keyValid = false then { s with err := .noKey, busy := false, q := q, draws := d }
    else if Fits s s.regs.auxPtr 32 ∧ Fits s s.regs.srcPtr 32 ∧ Fits s s.regs.dstPtr 16 then
      { s with mem := s.mem.writeBytes s.regs.dstPtr.toNat (((s.mem.readBlock s.regs.dstPtr.toNat).xor
                 (encryptBlock s.dk (s.mem.readBlock s.regs.auxPtr.toNat) (s.mem.readBlock s.regs.srcPtr.toNat))).xor
                 (encryptBlock s.dk (s.mem.readBlock (s.regs.auxPtr.toNat + 16))
                   (s.mem.readBlock (s.regs.srcPtr.toNat + 16)))).bytes,
               err := .ok, busy := false, q := q, draws := d }
    else { s with err := .range, busy := false, q := q, draws := d })) ∧
  decodeWord 0x00000023 = .ok .bcTag2 ∧
  (tagAcc2 (deriveK (count 0 32)) (countBlock 0xf0) (authTweak adFull 0) (authTweak adFull 1) (countBlock 0x40) (countBlock 0x50)).bytes =
    [0x52, 0x46, 0x46, 0x26, 0x44, 0xc9, 0x4d, 0xfa, 0x0d, 0x75, 0x51, 0x05, 0xc2, 0x71, 0x85, 0x79] ∧
  (∀ (dk : Vector Block 17) (acc t b : Block), tagAcc2 dk acc t t b b = acc)

/-- BC_TAG2 equals two BC_TAG1 commands, the second with AUX_PTR and SRC_PTR 16 further (42_cipher.md R178, R174), when
the running tag lies apart from the tweaks and the blocks and all regions are in M. -/
def Obligations.BcTag2IsTwoBcTag1 : Prop :=
  ∀ s t u : State, s.mem.wf s.cfg.memSize → s.keyValid = true →
    s.regs.auxPtr.toNat + 32 ≤ s.cfg.memSize → s.regs.srcPtr.toNat + 32 ≤ s.cfg.memSize →
    s.regs.dstPtr.toNat + 16 ≤ s.cfg.memSize →
    ¬ Meets s.regs.dstPtr 16 s.regs.auxPtr 32 → ¬ Meets s.regs.dstPtr 16 s.regs.srcPtr 32 →
    exec .bcTag1 s = .next t →
    exec .bcTag1 { t with regs := { t.regs with auxPtr := t.regs.auxPtr + 16, srcPtr := t.regs.srcPtr + 16 } } = .next u →
    ∃ v, exec .bcTag2 s = .next v ∧ v.mem = u.mem ∧ v.err = u.err

/-! ### The AEAD commands -/

/-- The source's chunked walk (pairs of blocks by TagAcc2, a single one by TagAcc1) computes Absorb, and the cipher calls
of an absorption may be folded in any order (43_aead.md R204). -/
def Obligations.ChunkedWalkComputesAbsorb : Prop :=
  (∀ (dk : Vector Block 17) (acc : Block) (x : List Byte) (p f : BitVec 4), absorbWalk dk acc x p f = absorb dk acc x p f) ∧
  (∀ (dk : Vector Block 17) (acc : Block) (c d : List (Block × Block)), c.Perm d → foldCalls dk acc c = foldCalls dk acc d)

/-- Opening a sealed message gives it back: Open(DK, N, Seal(DK, N, P, AD), AD) = (true, P), and the sealed message is 16
bytes longer than P (43_aead.md R208 to R210, R216). -/
def Obligations.OpenOfSealIsPlaintext : Prop :=
  ∀ (dk : Vector Block 17) (n p ad : List Byte),
    openMessage dk n (sealMessage dk n p ad) ad = (true, p) ∧ (sealMessage dk n p ad).length = p.length + 16

/-- AEAD_ENC (43_aead.md R214): Seal of nonce, AD and plaintext to DST_PTR when no check of the rule applies; else its
error, with M unchanged. Nothing else changes but STATUS and Q, whose new value the statement leaves open. Beside it the
byte strings that Seal and Open build, in plain arithmetic: the authentication tweak (R200) and the keystream tweak (R207),
both with the block index big-endian in bytes 12..15 (20_memory.md R53), the four block prefixes, the padding, and the
nonce blocks of the tag and the keystream, with examples of 95_test_vectors.md section 2.4. -/
def Obligations.AeadEncResult : Prop :=
  (∀ s : State, ∃ q d, exec .aeadEnc s = .next (
    if s.keyValid = false then { s with err := .noKey, busy := false, q := q, draws := d }
    else if s.regs.nonceLen ≠ 15 then { s with err := .nonceSize, busy := false, q := q, draws := d }
    else if ¬ AeadFits s (s.regs.srcLen.toNat + 16) then { s with err := .range, busy := false, q := q, draws := d }
    else if AeadMeets s (s.regs.srcLen.toNat + 16) then { s with err := .overlap, busy := false, q := q, draws := d }
    else { s with mem := s.mem.writeBytes s.regs.dstPtr.toNat (sealMessage s.dk (nonceOf s) (inputOf s) (adOf s)),
                  err := .ok, busy := false, q := q, draws := d })) ∧
  (∀ (p : BitVec 4) (i : Nat), i < 2 ^ 32 →
    (authTweak p i).bytes = (p ++ (0 : BitVec 4)) :: (zeros 11 ++ bigEndian i)) ∧
  (∀ (g : Block) (j : Nat), j < 2 ^ 32 →
    (ksTweak g j).bytes =
      (g.bytes.getD 0 0 ||| 0x80) :: ((g.bytes.drop 1).take 11 ++ xorBytes (g.bytes.drop 12) (bigEndian j))) ∧
  (authTweak 0x2 0x01020304).bytes = [0x20, 0, 0, 0, 0, 0, 0, 0, 0, 0, 0, 0, 0x01, 0x02, 0x03, 0x04] ∧
  (ksTweak (blockAt [0x00, 0x11, 0x22, 0x33, 0x44, 0x55, 0x66, 0x77, 0x88, 0x99, 0xaa, 0xbb, 0xcc, 0xdd, 0xee, 0xff] 0)
      0x01020304).bytes =
    [0x80, 0x11, 0x22, 0x33, 0x44, 0x55, 0x66, 0x77, 0x88, 0x99, 0xaa, 0xbb, 0xcd, 0xdf, 0xed, 0xfb] ∧
  (adFull = 0x2 ∧ adFinal = 0x6 ∧ msgFull = 0x0 ∧ msgFinal = 0x4) ∧
  (∀ x : List Byte, 1 ≤ x.length → x.length ≤ 15 → (padBlock x).bytes = x ++ 0x80 :: zeros (15 - x.length)) ∧
  (∀ (b : Byte) (n : List Byte), n.length = 15 → (nonceBlock b n).bytes = b :: n) ∧
  decodeWord 0x00000010 = .ok .aeadEnc ∧
  sealMessage (deriveK (count 0 32)) (count 0 15) [] (count 0 33) =
    [0xf7, 0xb3, 0xb3, 0x3c, 0x2f, 0xac, 0x95, 0x7a, 0x43, 0x93, 0x9a, 0x57, 0xb5, 0xfe, 0x53, 0x2d] ∧
  sealMessage (deriveK (count 0 32)) (count 0 15) [] [] =
    [0xdc, 0xc1, 0x29, 0xc2, 0x11, 0x7d, 0xd2, 0xff, 0x98, 0x61, 0x3e, 0x72, 0xff, 0x9d, 0x38, 0x01] ∧
  sealMessage (deriveK (count 0 32)) (count 0 15) (count 0x20 17) [0x00] =
    [0x8b, 0x9e, 0xe2, 0x07, 0x99, 0x50, 0x49, 0x5f, 0x6c, 0x58, 0xbd, 0x4a, 0xf6, 0xaf, 0x6e, 0xc5,
      0x68, 0x8e, 0x55, 0x27, 0x0b, 0xc3, 0xf6, 0xe5, 0xec, 0x65, 0x09, 0xde, 0x8a, 0xc7, 0xc4, 0x93,
      0x9e]

/-- AEAD_DEC (43_aead.md R215): when no check of the rule applies, the plaintext at DST_PTR and ERR = 0 if the tag
verifies, else zeros over the whole output and AUTH; else the check's error, with M unchanged. -/
def Obligations.AeadDecResult : Prop :=
  (∀ s : State, ∃ q d, exec .aeadDec s = .next (
    if s.keyValid = false then { s with err := .noKey, busy := false, q := q, draws := d }
    else if s.regs.nonceLen ≠ 15 then { s with err := .nonceSize, busy := false, q := q, draws := d }
    else if s.regs.srcLen.toNat < 16 then { s with err := .auth, busy := false, q := q, draws := d }
    else if ¬ AeadFits s (s.regs.srcLen.toNat - 16) then { s with err := .range, busy := false, q := q, draws := d }
    else if AeadMeets s (s.regs.srcLen.toNat - 16) then { s with err := .overlap, busy := false, q := q, draws := d }
    else if openOk s.dk (nonceOf s) (inputOf s) (adOf s) then
      { s with mem := s.mem.writeBytes s.regs.dstPtr.toNat (openBody s.dk (nonceOf s) (inputOf s)),
               err := .ok, busy := false, q := q, draws := d }
    else { s with mem := s.mem.writeBytes s.regs.dstPtr.toNat (List.replicate (s.regs.srcLen.toNat - 16) 0),
                  err := .auth, busy := false, q := q, draws := d })) ∧
  decodeWord 0x00000011 = .ok .aeadDec ∧
  openMessage (deriveK (count 0 32)) (count 0 15)
    [0x8b, 0x9e, 0xe2, 0x07, 0x99, 0x50, 0x49, 0x5f, 0x6c, 0x58, 0xbd, 0x4a, 0xf6, 0xaf, 0x6e, 0xc5,
      0x68, 0x8e, 0x55, 0x27, 0x0b, 0xc3, 0xf6, 0xe5, 0xec, 0x65, 0x09, 0xde, 0x8a, 0xc7, 0xc4, 0x93,
      0x9e] [0x00] = (true, count 0x20 17) ∧
  openMessage (deriveK (count 0 32)) (count 0 15)
    [0x8b, 0x9e, 0xe2, 0x07, 0x99, 0x50, 0x49, 0x5f, 0x6c, 0x58, 0xbd, 0x4a, 0xf6, 0xaf, 0x6e, 0xc5,
      0x68, 0x8e, 0x55, 0x27, 0x0b, 0xc3, 0xf6, 0xe5, 0xec, 0x65, 0x09, 0xde, 0x8a, 0xc7, 0xc4, 0x93,
      0x9f] [0x00] = (false, zeros 17)

/-- The round trip on the machine (43_aead.md R210, R214, R215): after an AEAD_ENC that finishes OK, an AEAD_DEC of its
output, in place, finishes OK and leaves the plaintext at the output address. -/
def Obligations.DecryptionRecoversPlaintext : Prop :=
  ∀ s t : State, exec .aeadEnc s = .next t → t.err = .ok → s.regs.srcLen.toNat + 16 < 2 ^ 32 →
    ∃ u, exec .aeadDec { t with regs := { t.regs with srcPtr := t.regs.dstPtr, srcLen := t.regs.srcLen + 16 } } = .next u ∧
      u.err = .ok ∧ u.mem.readBytes s.regs.dstPtr.toNat s.regs.srcLen.toNat = inputOf s

/-- The phases of AEAD_ENC, reading and writing M block by block in ascending order, leave the same M as the command
(43_aead.md R212; 20_memory.md R61), in place or with the output apart from the input. -/
def Obligations.SequencedEncryptionAgrees : Prop :=
  ∀ s : State, s.keyValid = true → s.regs.nonceLen = 15 → AeadFits s (s.regs.srcLen.toNat + 16) →
    ¬ AeadMeets s (s.regs.srcLen.toNat + 16) →
    ∃ t, exec .aeadEnc s = .next t ∧ t.err = .ok ∧ t.mem = sequenceEnc s

/-- The phases of AEAD_DEC leave the same M, and report the same outcome of the tag comparison, as the command (43_aead.md
R213; 20_memory.md R61). -/
def Obligations.SequencedDecryptionAgrees : Prop :=
  ∀ s : State, s.mem.wf s.cfg.memSize → s.keyValid = true → s.regs.nonceLen = 15 → 16 ≤ s.regs.srcLen.toNat →
    AeadFits s (s.regs.srcLen.toNat - 16) → ¬ AeadMeets s (s.regs.srcLen.toNat - 16) →
    ∃ t, exec .aeadDec s = .next t ∧ t.err = (if (sequenceDec s).1 then .ok else .auth) ∧ t.mem = (sequenceDec s).2

/-- The number of E evaluations of each command is fixed by the command, by whether one of its checks fails and by the
lengths (70_reset_and_hazards.md R278; 43_aead.md R212, R213). The count is that of `execCounted`, in which the cipher is
reached only through a counted call; it has the outcome of `exec` on every command and state. With ceil(n/16) written
(n + 15) / 16: a command that fails a check makes no evaluation, and one that computes makes those of the rule's table,
AEAD_DEC whether or not the tag matches. Of KEY_SETUP and the Q_* commands, which make none, it is also said that any other
DK, the key of E, gives the same outcome but for DK itself. -/
def Obligations.EvaluationsFixedByLengths : Prop :=
  (∀ (i : Instr) (s : State), (execCounted i s).value = exec i s) ∧
  (∀ s : State,
    (∀ v, cipherEvaluations s (.keySetup v) = 0) ∧ (∀ i, isEngine i = true → cipherEvaluations s i = 0) ∧
    cipherEvaluations s .bcEnc =
      (if s.keyValid = true ∧ Fits s s.regs.auxPtr 16 ∧ Fits s s.regs.srcPtr 16 ∧ Fits s s.regs.dstPtr 16 then 1 else 0) ∧
    cipherEvaluations s .bcTag1 =
      (if s.keyValid = true ∧ Fits s s.regs.auxPtr 16 ∧ Fits s s.regs.srcPtr 16 ∧ Fits s s.regs.dstPtr 16 then 1 else 0) ∧
    cipherEvaluations s .bcDualKs =
      (if s.keyValid = true ∧ Fits s s.regs.auxPtr 32 ∧ Fits s s.regs.srcPtr 16 ∧ Fits s s.regs.dstPtr 32 then 2 else 0) ∧
    cipherEvaluations s .bcTag2 =
      (if s.keyValid = true ∧ Fits s s.regs.auxPtr 32 ∧ Fits s s.regs.srcPtr 32 ∧ Fits s s.regs.dstPtr 16 then 2 else 0) ∧
    cipherEvaluations s .aeadEnc =
      (if s.keyValid = true ∧ s.regs.nonceLen = 15 ∧ AeadFits s (s.regs.srcLen.toNat + 16)
          ∧ ¬ AeadMeets s (s.regs.srcLen.toNat + 16) then
        (s.regs.adLen.toNat + 15) / 16 + 2 * ((s.regs.srcLen.toNat + 15) / 16) + 1 else 0) ∧
    cipherEvaluations s .aeadDec =
      (if s.keyValid = true ∧ s.regs.nonceLen = 15 ∧ 16 ≤ s.regs.srcLen.toNat ∧ AeadFits s (s.regs.srcLen.toNat - 16)
          ∧ ¬ AeadMeets s (s.regs.srcLen.toNat - 16) then
        (s.regs.adLen.toNat + 15) / 16 + 2 * ((s.regs.srcLen.toNat - 16 + 15) / 16) + 1 else 0)) ∧
  (∀ (i : Instr) (s t : State) (d : Vector Block 17), (isEngine i = true ∨ ∃ v, i = .keySetup v) → exec i s = .next t →
    ∃ u, exec i { s with dk := d } = .next u ∧ { u with dk := t.dk } = t)

/-! ### The host's actions -/

/-- STATUS field by field (10_state.md R23): ERR in 3:0 with a code below 8, zeros in 7:4, BUSY in 8, KEY_VALID in 9,
VARIANT in 10, zeros in 31:11; the eight codes of 60_exceptions.md R241; and a host write to it is ignored, when the host
may write at all (BUSY = 0 and the read of STATUS of 70_reset_and_hazards.md R273 done, log entry 17). -/
def Obligations.StatusFields : Prop :=
  (∀ s : State,
    s.status.extractLsb' 0 4 = s.err.code ∧ s.err.code.toNat < 8 ∧ s.status.extractLsb' 4 4 = 0 ∧
    s.status.getLsbD 8 = s.busy ∧ s.status.getLsbD 9 = s.keyValid ∧
    s.status.getLsbD 10 = decide (s.variant = .fast) ∧ s.status.extractLsb' 11 21 = 0) ∧
  (ErrCode.ok.code = 0 ∧ ErrCode.keySize.code = 1 ∧ ErrCode.nonceSize.code = 2 ∧ ErrCode.auth.code = 3 ∧
    ErrCode.noKey.code = 4 ∧ ErrCode.illegal.code = 5 ∧ ErrCode.range.code = 6 ∧ ErrCode.overlap.code = 7) ∧
  (∀ (s : State) (v : Word), s.busy = false → s.awaiting = false → hostStep (.regWrite 0x04 4 v) s = .next s)

/-- A CMD write while BUSY = 0, by a host that has read STATUS with BUSY = 0 since its last one (70_reset_and_hazards.md
R273), latches PENDING, sets BUSY and clears ERR, with no other effect on the core; from here on the host owes that read,
which the model keeps in a field of its own (log entry 17). A read of CMD gives 0. A CMD write while BUSY = 1, or before
that read, is a host protocol violation, which records the mark FAULT (10_state.md R22, R273). -/
def Obligations.CommandWriteIssues : Prop :=
  ∀ (s : State) (v : Word),
    (s.busy = false → s.awaiting = false →
      hostStep (.regWrite 0x00 4 v) s = .next { s with pending := v, busy := true, err := .ok, awaiting := true }) ∧
    hostStep (.regRead 0x00 4) s = .next { s with seen := s.seen ++ [.reg 0x00 0] } ∧
    (s.busy = true → s.fault = none → ∃ t, hostStep (.regWrite 0x00 4 v) s = .next t ∧ t.fault = some .accessWhileBusy) ∧
    (s.busy = false → s.awaiting = true → s.fault = none →
      ∃ t, hostStep (.regWrite 0x00 4 v) s = .next t ∧ t.fault = some .accessBeforeStatusRead)

/-- A descriptor register stores any 32-bit value and a read returns it; a write changes no other descriptor register, no
other register's view and no other part of the state; after reset it reads 0, and no command writes it (10_state.md
R24). The write is one that R255 and R273 allow; AccessWhileBusyMarks says what the others do. -/
def Obligations.DescriptorWriteReadBack : Prop :=
  (∀ (s : State) (r : Reg) (v : Word), s.busy = false → s.awaiting = false → r ≠ .cmd → r ≠ .status → r ≠ .reserved →
    ∃ t, hostStep (.regWrite r.offset 4 v) s = .next t ∧
      hostStep (.regRead r.offset 4) t = .next { t with seen := t.seen ++ [.reg r.offset v] } ∧
      (∀ r', r' ≠ r → t.readReg r' = s.readReg r') ∧ { t with regs := s.regs } = s) ∧
  (∀ r : Reg, State.reset.readReg r = 0) ∧ (∀ (i : Instr) (s t : State), exec i s = .next t → t.regs = s.regs)

/-- The reserved offsets 0x30, 0x34, 0x38 and 0x3C read as 0 and ignore writes (10_state.md R25). The write is one that R255
and R273 allow; AccessWhileBusyMarks says what the others do. -/
def Obligations.ReservedOffsetsReadZero : Prop :=
  ∀ (s : State) (o : Nat) (v : Word), o = 0x30 ∨ o = 0x34 ∨ o = 0x38 ∨ o = 0x3C →
    hostStep (.regRead o 4) s = .next { s with seen := s.seen ++ [.reg o 0] } ∧
    (s.busy = false → s.awaiting = false → hostStep (.regWrite o 4 v) s = .next s)

/-- A register access that is no whole 32-bit word, is misaligned, or is at an offset of 0x40 or above records the mark
FAULT (10_state.md R26, 60_exceptions.md R255 (b)); every other register read is admitted. A malformed write while BUSY = 1
falls under R255 (a) and (b) alike: that the mark then names the malformed access is the model's choice (log entry 8). An
admitted read changes nothing of the core; a read of STATUS that shows BUSY = 0 is the read of R273 (log entry 17). -/
def Obligations.MalformedRegisterAccessMarks : Prop :=
  ∀ (s : State) (o w : Nat) (v : Word), s.fault = none →
    (¬ (w = 4 ∧ o % 4 = 0 ∧ o < 0x40) →
      (∃ t, hostStep (.regRead o w) s = .next t ∧ t.fault = some .badRegisterAccess) ∧
      (∃ t, hostStep (.regWrite o w v) s = .next t ∧ t.fault = some .badRegisterAccess)) ∧
    (w = 4 ∧ o % 4 = 0 ∧ o < 0x40 → ∃ x, hostStep (.regRead o w) s =
      .next { s with seen := s.seen ++ [.reg o x], awaiting := s.awaiting && (decide (o ≠ 0x04) || s.busy) })

/-- From a CMD write until it has read STATUS with BUSY = 0 the host may read registers, and nothing else: any write of a
register, and any access to M, only sets the mark FAULT, while BUSY = 1 and after completion alike, and the read of STATUS
that shows BUSY = 0 ends this (60_exceptions.md R255 (a); 70_reset_and_hazards.md R273). That a violation does nothing else
is the model's choice (log entry 8), and so are the field that remembers the read and the kind of the second violation
(log entry 17). -/
def Obligations.AccessWhileBusyMarks : Prop :=
  ∀ (s : State), s.fault = none →
    (s.busy = true →
      (∀ (o : Nat) (v : Word), o % 4 = 0 → o < 0x40 →
        hostStep (.regWrite o 4 v) s = .next { s with fault := some .accessWhileBusy }) ∧
      (∀ (a : Nat) (b : List Byte), hostStep (.memWrite a b) s = .next { s with fault := some .accessWhileBusy }) ∧
      (∀ a n : Nat, hostStep (.memRead a n) s = .next { s with fault := some .accessWhileBusy }) ∧
      hostStep (.regRead 0x04 4) s = .next { s with seen := s.seen ++ [.reg 0x04 s.status] }) ∧
    (s.busy = false → s.awaiting = true →
      (∀ (o : Nat) (v : Word), o % 4 = 0 → o < 0x40 →
        hostStep (.regWrite o 4 v) s = .next { s with fault := some .accessBeforeStatusRead }) ∧
      (∀ (a : Nat) (b : List Byte), hostStep (.memWrite a b) s = .next { s with fault := some .accessBeforeStatusRead }) ∧
      (∀ a n : Nat, hostStep (.memRead a n) s = .next { s with fault := some .accessBeforeStatusRead }) ∧
      hostStep (.regRead 0x04 4) s = .next { s with seen := s.seen ++ [.reg 0x04 s.status], awaiting := false })

/-- FAULT is sticky: no host action and no command clears it (60_exceptions.md R255). What R255 does not say is the model's
choice: that a mark already set keeps its kind (log entry 8), that no turn but a reset's goes on from a marked state (log
entry 7), and that a reset, which is excepted here, clears the mark (log entry 9). -/
def Obligations.FaultMarkIsSticky : Prop :=
  ∀ (s : State) (v : Violation), s.fault = some v →
    ((∀ rest, s.agenda ≠ .reset :: rest) → step s = .fault (.hostProtocol v)) ∧
    (∀ (a : HostAct) (t : State), hostStep a s = .next t → t.fault = some v) ∧
    (∀ (i : Instr) (t : State), exec i s = .next t → t.fault = some v)

/-- A host access to M is one byte-string transfer (20_memory.md R60): a write changes only the bytes written and a read of
them gives them back; a read changes nothing of the core. The access is one that R255 and R273 allow. (An access to an
address outside M is a fault: log entry 10.) -/
def Obligations.HostMemoryTransfer : Prop :=
  ∀ (s : State) (a : Nat) (b : List Byte), s.busy = false → s.awaiting = false →
    (a + b.length ≤ s.cfg.memSize → ∃ t, hostStep (.memWrite a b) s = .next t ∧ { t with mem := s.mem } = s ∧
      (∀ x, x < a ∨ a + b.length ≤ x → t.mem.read x = s.mem.read x) ∧
      hostStep (.memRead a b.length) t = .next { t with seen := t.seen ++ [.mem a b] }) ∧
    (b ≠ [] → s.cfg.memSize < a + b.length → hostStep (.memWrite a b) s = .fault .addressOutsideM ∧
      hostStep (.memRead a b.length) s = .fault .addressOutsideM)
end

