-- ==== Sys2Proof/Laws/Bytes.lean ====
section
/-! SUPPORT. The small lemmas of byte strings, blocks and engine words. -/

namespace Sys2Proof

@[simp] theorem Column.bytes_length (x : Column) : x.bytes.length = 4 := rfl

@[simp] theorem Block.bytes_length (x : Block) : x.bytes.length = 16 := rfl

@[simp] theorem zeros_length (n : Nat) : (zeros n).length = n := by simp [zeros]

@[simp] theorem xorBytes_length (x y : List Byte) : (xorBytes x y).length = min x.length y.length := by
  simp [xorBytes]

/-- The block of a block's own bytes is the block. -/
@[simp] theorem blockAt_bytes (x : Block) : blockAt x.bytes 0 = x := rfl

/-- What follows a block's bytes does not change the block read from them. -/
@[simp] theorem blockAt_bytes_append (x : Block) (y : List Byte) : blockAt (x.bytes ++ y) 0 = x := rfl

/-- The bytes of the block of a 16-byte string are the string. -/
theorem bytes_blockAt_zero {x : List Byte} (h : x.length = 16) : (blockAt x 0).bytes = x := by
  apply List.ext_getElem (by simp [h])
  intro i h1 h2
  simp only [Block.bytes_length] at h1
  have hi : i = 0 ∨ i = 1 ∨ i = 2 ∨ i = 3 ∨ i = 4 ∨ i = 5 ∨ i = 6 ∨ i = 7 ∨ i = 8 ∨ i = 9 ∨ i = 10 ∨ i = 11 ∨ i = 12
      ∨ i = 13 ∨ i = 14 ∨ i = 15 := by omega
  rcases hi with rfl | rfl | rfl | rfl | rfl | rfl | rfl | rfl | rfl | rfl | rfl | rfl | rfl | rfl | rfl | rfl <;>
    simp [blockAt, columnAt, Block.bytes, Column.bytes, h]

theorem Column.xor_comm (x y : Column) : x.xor y = y.xor x := by
  simp [Column.xor, BitVec.xor_comm]

theorem Column.xor_assoc (x y z : Column) : (x.xor y).xor z = x.xor (y.xor z) := by
  simp [Column.xor, BitVec.xor_assoc]

theorem Block.xor_comm (x y : Block) : x.xor y = y.xor x := by
  simp [Block.xor, Column.xor_comm]

theorem Block.xor_assoc (x y z : Block) : (x.xor y).xor z = x.xor (y.xor z) := by
  simp [Block.xor, Column.xor_assoc]

@[simp] theorem Block.xor_self (x : Block) : x.xor x = zeroBlock := by
  simp [Block.xor, Column.xor, zeroBlock, zeroColumn]

@[simp] theorem Block.xor_zero (x : Block) : x.xor zeroBlock = x := by
  simp [Block.xor, Column.xor, zeroBlock, zeroColumn]

@[simp] theorem Block.zero_xor (x : Block) : zeroBlock.xor x = x := by
  simp [Block.xor, Column.xor, zeroBlock, zeroColumn]

/-- XOR with the same block twice changes nothing. -/
@[simp] theorem Block.xor_xor_cancel (x y : Block) : (x.xor y).xor y = x := by
  rw [Block.xor_assoc, Block.xor_self, Block.xor_zero]

@[simp] theorem EngineWords.xor_zero (x : EngineWords) : x.xor zeroWords = x := by
  simp [EngineWords.xor, zeroWords]

@[simp] theorem deriveSTKFrom_length (ds : List Block) (t : Block) : (deriveSTKFrom ds t).length = ds.length := by
  induction ds generalizing t with
  | nil => rfl
  | cons d ds ih => simp [deriveSTKFrom, ih]

/-- A block's DeriveSTK gives seventeen round keys (R146). -/
@[simp] theorem deriveSTK_length (dk : Vector Block 17) (t : Block) : (deriveSTK dk t).length = 17 := by
  simp [deriveSTK]

/-- Bit p of a word assembled from bits. -/
theorem wordOfBits_getLsbD (f : Nat → Bool) (n p : Nat) (hn : n ≤ 32) :
    (wordOfBits f n).getLsbD p = (decide (p < n) && f p) := by
  induction n with
  | zero => simp [wordOfBits]
  | succ n ih =>
    rw [wordOfBits, BitVec.getLsbD_or, ih (by omega)]
    by_cases hf : f n
    · rw [if_pos hf, BitVec.getLsbD_shiftLeft]
      by_cases hp : p = n
      · subst hp
        simp [hf, show p < 32 by omega]
      · rcases Nat.lt_or_ge p n with h | h
        · simp [h, show p < n + 1 by omega]
        · have : p - n ≠ 0 := by omega
          simp [show ¬ p < n + 1 by omega, show ¬ p < n by omega, this]
    · rw [if_neg hf, show BitVec.getLsbD (0 : Word) p = false from BitVec.getLsbD_zero, Bool.or_false]
      by_cases hp : p = n
      · subst hp
        simp [hf]
      · rw [show decide (p < n + 1) = decide (p < n) from decide_eq_decide.mpr (by omega)]

/-- Folding a concatenation of calls is folding the one and then the other (R203). -/
theorem foldCalls_append (dk : Vector Block 17) (acc : Block) (c d : List (Block × Block)) :
    foldCalls dk acc (c ++ d) = foldCalls dk (foldCalls dk acc c) d := by
  simp [foldCalls, List.foldl_append]

end Sys2Proof
end

