-- ==== Sys2Proof/Laws/Counting.lean ====
section
/-! SUPPORT. Each counted function has the value of the function that it repeats, and the number of evaluations that the
phases of R212 and R213 give it. -/

namespace Sys2Proof

section
variable (dk : Vector Block 17)

@[simp] theorem Counted.pure_value {α : Type} (a : α) : (Counted.pure a).value = a := rfl
@[simp] theorem Counted.pure_calls {α : Type} (a : α) : (Counted.pure a).calls = 0 := rfl

@[simp] theorem Counted.bind_value {α β : Type} (x : Counted α) (f : α → Counted β) :
    (x.bind f).value = (f x.value).value := rfl

@[simp] theorem Counted.bind_calls {α β : Type} (x : Counted α) (f : α → Counted β) :
    (x.bind f).calls = x.calls + (f x.value).calls := rfl

@[simp] theorem Counted.encrypt_value (t p : Block) : (Counted.encrypt dk t p).value = encryptBlock dk t p := rfl
@[simp] theorem Counted.encrypt_calls (t p : Block) : (Counted.encrypt dk t p).calls = 1 := rfl

@[simp] theorem Counted.tagAcc1_value (acc t b : Block) :
    (Counted.tagAcc1 dk acc t b).value = Sys2Proof.tagAcc1 dk acc t b := rfl

@[simp] theorem Counted.tagAcc1_calls (acc t b : Block) : (Counted.tagAcc1 dk acc t b).calls = 1 := rfl

@[simp] theorem Counted.foldCalls_value (acc : Block) (c : List (Block × Block)) :
    (Counted.foldCalls dk acc c).value = Sys2Proof.foldCalls dk acc c := by
  induction c generalizing acc with
  | nil => rfl
  | cons c rest ih => exact ih _

@[simp] theorem Counted.foldCalls_calls (acc : Block) (c : List (Block × Block)) :
    (Counted.foldCalls dk acc c).calls = c.length := by
  induction c generalizing acc with
  | nil => rfl
  | cons c rest ih => simp [Counted.foldCalls, ih, Nat.add_comm]

/-- An absorption makes one call for each 16-byte chunk, the last one perhaps partial (R203). -/
theorem absorbCalls_length (p f : BitVec 4) (x : List Byte) : (absorbCalls p f x).length = chunkCount x.length := by
  unfold absorbCalls chunkCount
  by_cases h : x.length % 16 = 0 <;> simp [h] <;> omega

@[simp] theorem Counted.absorb_value (acc : Block) (x : List Byte) (p f : BitVec 4) :
    (Counted.absorb dk acc x p f).value = Sys2Proof.absorb dk acc x p f := Counted.foldCalls_value dk acc _

@[simp] theorem Counted.absorb_calls (acc : Block) (x : List Byte) (p f : BitVec 4) :
    (Counted.absorb dk acc x p f).calls = chunkCount x.length := by
  rw [Counted.absorb, Counted.foldCalls_calls, absorbCalls_length]

@[simp] theorem Counted.tag_value (nonce ad p : List Byte) :
    (Counted.tag dk nonce ad p).value = tagOf dk nonce (authenticate dk ad p) := by
  simp [Counted.tag, tagOf, authenticate]

@[simp] theorem Counted.tag_calls (nonce ad p : List Byte) :
    (Counted.tag dk nonce ad p).calls = chunkCount ad.length + chunkCount p.length + 1 := by
  simp [Counted.tag, Nat.add_assoc]

theorem Counted.keystreamChunks_value (g : Block) (nonce x : List Byte) (js : List Nat) :
    (Counted.keystreamChunks dk g nonce x js).value =
      js.flatMap fun j => xorBytes (chunk x j) (keystreamBlock dk g nonce j).bytes := by
  induction js with
  | nil => rfl
  | cons j rest ih => simp [Counted.keystreamChunks, ih, keystreamBlock]

theorem Counted.keystreamChunks_calls (g : Block) (nonce x : List Byte) (js : List Nat) :
    (Counted.keystreamChunks dk g nonce x js).calls = js.length := by
  induction js with
  | nil => rfl
  | cons j rest ih => simp [Counted.keystreamChunks, ih, Nat.add_comm]

@[simp] theorem Counted.keystream_value (g : Block) (nonce x : List Byte) :
    (Counted.keystream dk g nonce x).value = Sys2Proof.keystream dk g nonce x :=
  Counted.keystreamChunks_value dk g nonce x _

@[simp] theorem Counted.keystream_calls (g : Block) (nonce x : List Byte) :
    (Counted.keystream dk g nonce x).calls = chunkCount x.length := by
  rw [Counted.keystream, Counted.keystreamChunks_calls, List.length_range]

@[simp] theorem Counted.sealMessage_value (nonce p ad : List Byte) :
    (Counted.sealMessage dk nonce p ad).value = Sys2Proof.sealMessage dk nonce p ad := by
  simp [Counted.sealMessage, Sys2Proof.sealMessage]

@[simp] theorem Counted.openMessage_value (nonce x ad : List Byte) :
    (Counted.openMessage dk nonce x ad).value = Sys2Proof.openMessage dk nonce x ad := by
  simp [Counted.openMessage, Sys2Proof.openMessage, openOk, openBody]

end

end Sys2Proof
end

