-- ==== Sys2Proof/Laws/Memory.lean ====
section
/-! SUPPORT. The laws of the memory operations: what a read gives after a write, and that every write keeps the canonical
form. -/

namespace Sys2Proof.Machine

/-! ### One byte -/

theorem Memory.read_insert_same (m : Memory) (a : Nat) (v : Byte) (h : ∀ c ∈ m, c.1 ≠ a) :
    (m.insert a v).read a = v := by
  induction m with
  | nil => simp [Memory.insert, Memory.read]
  | cons c rest ih =>
    obtain ⟨b, w⟩ := c
    have hb : b ≠ a := h (b, w) (by simp)
    by_cases hlt : a < b
    · simp [Memory.insert, hlt, Memory.read]
    · simp only [Memory.insert, hlt, if_false, Memory.read, hb]
      exact ih fun c hc => h c (by simp [hc])

theorem Memory.read_insert_other (m : Memory) (a : Nat) (v : Byte) {b : Nat} (h : b ≠ a) :
    (m.insert a v).read b = m.read b := by
  induction m with
  | nil => simp [Memory.insert, Memory.read, h.symm]
  | cons c rest ih =>
    obtain ⟨d, w⟩ := c
    by_cases hlt : a < d
    · simp [Memory.insert, hlt, Memory.read, h.symm]
    · simp only [Memory.insert, hlt, if_false, Memory.read, ih]

theorem Memory.read_erase_same (m : Memory) (a : Nat) : (m.erase a).read a = Memory.blank := by
  induction m with
  | nil => rfl
  | cons c rest ih =>
    obtain ⟨b, w⟩ := c
    by_cases hb : b = a
    · simpa [Memory.erase, hb] using ih
    · have : Memory.erase ((b, w) :: rest) a = (b, w) :: Memory.erase rest a := by simp [Memory.erase, hb]
      rw [this, Memory.read, if_neg hb, ih]

theorem Memory.read_erase_other (m : Memory) (a : Nat) {b : Nat} (h : b ≠ a) : (m.erase a).read b = m.read b := by
  induction m with
  | nil => rfl
  | cons c rest ih =>
    obtain ⟨d, w⟩ := c
    by_cases hd : d = a
    · have : Memory.erase ((d, w) :: rest) a = Memory.erase rest a := by simp [Memory.erase, hd]
      rw [this, ih, Memory.read, if_neg (by rw [hd]; exact h.symm)]
    · have : Memory.erase ((d, w) :: rest) a = (d, w) :: Memory.erase rest a := by simp [Memory.erase, hd]
      rw [this, Memory.read, Memory.read, ih]

theorem Memory.erase_no_entry (m : Memory) (a : Nat) : ∀ c ∈ m.erase a, c.1 ≠ a := by
  intro c hc
  simpa using (List.mem_filter.mp hc).2

/-- Reading the byte just written gives it. -/
@[simp] theorem Memory.read_write_same (m : Memory) (a : Nat) (v : Byte) : (m.write a v).read a = v := by
  by_cases hv : v = Memory.blank
  · simp [Memory.write, hv, Memory.read_erase_same]
  · simp [Memory.write, hv, Memory.read_insert_same _ _ _ (Memory.erase_no_entry m a)]

/-- A write leaves every other byte alone. -/
theorem Memory.read_write_other (m : Memory) (a : Nat) (v : Byte) {b : Nat} (h : b ≠ a) :
    (m.write a v).read b = m.read b := by
  by_cases hv : v = Memory.blank
  · simp [Memory.write, hv, Memory.read_erase_other _ _ h]
  · simp [Memory.write, hv, Memory.read_insert_other _ _ _ h, Memory.read_erase_other _ _ h]

/-! ### Byte strings -/

@[simp] theorem Memory.readBytes_length (m : Memory) (a n : Nat) : (m.readBytes a n).length = n := by
  induction n generalizing a with
  | zero => rfl
  | succ n ih => simp [Memory.readBytes, ih]

/-- Byte i of a byte string read at `a` is the byte at `a + i`. -/
theorem Memory.readBytes_getElem (m : Memory) (a n i : Nat) (h : i < (m.readBytes a n).length) :
    (m.readBytes a n)[i] = m.read (a + i) := by
  induction n generalizing a i with
  | zero => simp [Memory.readBytes] at h
  | succ n ih =>
    cases i with
    | zero => simp [Memory.readBytes]
    | succ i =>
      simp only [Memory.readBytes, List.getElem_cons_succ]
      rw [ih]
      congr 1
      omega

/-- A byte outside the bytes written is left alone. -/
theorem Memory.read_writeBytes_outside (m : Memory) (a : Nat) (v : List Byte) {b : Nat}
    (h : b < a ∨ a + v.length ≤ b) : (m.writeBytes a v).read b = m.read b := by
  induction v generalizing m a with
  | nil => rfl
  | cons x v ih =>
    simp only [List.length_cons] at h
    rw [Memory.writeBytes, ih (m.write a x) (a + 1) (by omega), Memory.read_write_other m a x (by omega)]

/-- A byte among the bytes written is the one written there. -/
theorem Memory.read_writeBytes_inside (m : Memory) (a : Nat) (v : List Byte) (i : Nat) (h : i < v.length) :
    (m.writeBytes a v).read (a + i) = v[i] := by
  induction v generalizing m a i with
  | nil => simp at h
  | cons x v ih =>
    cases i with
    | zero => simp [Memory.writeBytes, Memory.read_writeBytes_outside _ _ _ (Or.inl (Nat.lt_succ_self a))]
    | succ i =>
      have := ih (m.write a x) (a + 1) i (by simpa using h)
      simpa [Memory.writeBytes, Nat.add_assoc, Nat.add_comm 1 i] using this

/-- Reading back the byte string just written gives it. -/
theorem Memory.readBytes_writeBytes_same (m : Memory) (a : Nat) (v : List Byte) :
    (m.writeBytes a v).readBytes a v.length = v := by
  apply List.ext_getElem (by simp)
  intro i h1 h2
  rw [Memory.readBytes_getElem, Memory.read_writeBytes_inside m a v i h2]

/-- A byte string apart from the bytes written is left alone. -/
theorem Memory.readBytes_writeBytes_apart (m : Memory) (a : Nat) (v : List Byte) (b n : Nat)
    (h : b + n ≤ a ∨ a + v.length ≤ b) : (m.writeBytes a v).readBytes b n = m.readBytes b n := by
  apply List.ext_getElem (by simp)
  intro i h1 h2
  rw [Memory.readBytes_getElem, Memory.readBytes_getElem]
  simp only [Memory.readBytes_length] at h1
  exact Memory.read_writeBytes_outside m a v (by omega)

/-- Two byte strings written one after the other are their concatenation written at once. -/
theorem Memory.writeBytes_append (m : Memory) (a : Nat) (v w : List Byte) :
    m.writeBytes a (v ++ w) = (m.writeBytes a v).writeBytes (a + v.length) w := by
  induction v generalizing m a with
  | nil => rfl
  | cons x v ih =>
    simp only [List.cons_append, Memory.writeBytes, List.length_cons, ih]
    congr 1
    omega

/-! ### The canonical form -/

/-- The empty memory has the canonical form. -/
theorem Memory.wf_nil (size : Nat) : Memory.wf size [] := by simp [Memory.wf]

/-- Reset's memory has the canonical form. -/
theorem State.reset_mem_wf : State.reset.mem.wf State.reset.cfg.memSize := Memory.wf_nil _

theorem Memory.wf_erase {size : Nat} {m : Memory} (h : m.wf size) (a : Nat) : (m.erase a).wf size :=
  ⟨h.1.sublist List.filter_sublist, fun c hc => h.2 c (List.mem_filter.mp hc).1⟩

theorem Memory.mem_insert {m : Memory} {a : Nat} {v : Byte} {c : Host.Cell} (h : c ∈ m.insert a v) :
    c = (a, v) ∨ c ∈ m := by
  induction m with
  | nil => simpa [Memory.insert] using h
  | cons d rest ih =>
    obtain ⟨b, w⟩ := d
    by_cases hlt : a < b
    · simpa [Memory.insert, hlt] using h
    · simp only [Memory.insert, hlt, if_false, List.mem_cons] at h ⊢
      rcases h with h | h
      · exact Or.inr (Or.inl h)
      · exact (ih h).imp_right Or.inr

theorem Memory.wf_insert {size : Nat} {m : Memory} (h : m.wf size) {a : Nat} {v : Byte} (ha : a < size)
    (hv : v ≠ Memory.blank) (hne : ∀ c ∈ m, c.1 ≠ a) : (m.insert a v).wf size := by
  refine ⟨?_, fun c hc => ?_⟩
  · have hs := h.1
    clear h
    induction m with
    | nil => simp [Memory.insert]
    | cons d rest ih =>
      obtain ⟨b, w⟩ := d
      have hb : b ≠ a := hne (b, w) (by simp)
      rw [List.pairwise_cons] at hs
      by_cases hlt : a < b
      · simp only [Memory.insert, hlt, if_true, List.pairwise_cons, List.mem_cons]
        refine ⟨?_, hs.1, hs.2⟩
        rintro c (rfl | hc)
        · exact hlt
        · exact Nat.lt_trans hlt (hs.1 c hc)
      · simp only [Memory.insert, hlt, if_false, List.pairwise_cons]
        refine ⟨fun c hc => ?_, ih (fun c hc => hne c (by simp [hc])) hs.2⟩
        rcases Memory.mem_insert hc with rfl | hc
        · exact lt_of_le_of_ne (Nat.le_of_not_lt hlt) hb
        · exact hs.1 c hc
  · rcases Memory.mem_insert hc with rfl | hc
    · exact ⟨ha, hv⟩
    · exact h.2 c hc

/-- A write inside M keeps the canonical form. -/
theorem Memory.wf_write {size : Nat} {m : Memory} (h : m.wf size) {a : Nat} (ha : a < size) (v : Byte) :
    (m.write a v).wf size := by
  by_cases hv : v = Memory.blank
  · simp only [Memory.write, hv, if_true]
    exact Memory.wf_erase h a
  · simp only [Memory.write, hv, if_false]
    exact Memory.wf_insert (Memory.wf_erase h a) ha hv (Memory.erase_no_entry m a)

/-- A byte string written inside M keeps the canonical form. -/
theorem Memory.wf_writeBytes {size : Nat} {m : Memory} (h : m.wf size) {a : Nat} {v : List Byte}
    (ha : v = [] ∨ a + v.length ≤ size) : (m.writeBytes a v).wf size := by
  induction v generalizing m a with
  | nil => exact h
  | cons x v ih =>
    simp only [List.length_cons, reduceCtorEq, false_or] at ha
    exact ih (Memory.wf_write h (by omega) x) (Or.inr (by omega))

/-- An address below every listed one reads as the blank byte. -/
theorem Memory.read_eq_blank_of_below {m : Memory} {a : Nat} (ha : ∀ c ∈ m, a < c.1) :
    m.read a = Memory.blank := by
  induction m with
  | nil => rfl
  | cons c rest ih =>
    obtain ⟨b, w⟩ := c
    have : a < b := ha (b, w) (by simp)
    rw [Memory.read, if_neg (by omega), ih fun c hc => ha c (by simp [hc])]

/-- Two memories in canonical form that read alike are equal: equal memories are equal data. -/
theorem Memory.ext_of_wf {size : Nat} {m m' : Memory} (h : m.wf size) (h' : m'.wf size)
    (hr : ∀ a, m.read a = m'.read a) : m = m' := by
  induction m generalizing m' with
  | nil =>
    cases m' with
    | nil => rfl
    | cons c rest =>
      obtain ⟨b, w⟩ := c
      have := hr b
      simp only [Memory.read, if_true] at this
      exact absurd this.symm (h'.2 (b, w) (by simp)).2
  | cons c rest ih =>
    obtain ⟨b, w⟩ := c
    have hw := (h.2 (b, w) (by simp)).2
    have hp := List.pairwise_cons.mp h.1
    cases m' with
    | nil =>
      have := hr b
      simp only [Memory.read, if_true] at this
      exact absurd this hw
    | cons c' rest' =>
      obtain ⟨b', w'⟩ := c'
      have hw' := (h'.2 (b', w') (by simp)).2
      have hp' := List.pairwise_cons.mp h'.1
      have hbb : b = b' := by
        rcases Nat.lt_trichotomy b b' with hlt | heq | hgt
        · have h1 := hr b
          rw [Memory.read, if_pos rfl, Memory.read_eq_blank_of_below (by
            rintro c hc
            rcases List.mem_cons.mp hc with rfl | hc
            · exact hlt
            · exact Nat.lt_trans hlt (hp'.1 c hc))] at h1
          exact absurd h1 hw
        · exact heq
        · have h1 := hr b'
          rw [Memory.read_eq_blank_of_below (by
            rintro c hc
            rcases List.mem_cons.mp hc with rfl | hc
            · exact hgt
            · exact Nat.lt_trans hgt (hp.1 c hc)), Memory.read, if_pos rfl] at h1
          exact absurd h1.symm hw'
      subst hbb
      have hww : w = w' := by simpa [Memory.read] using hr b
      subst hww
      have hrest : Memory.wf size rest := ⟨hp.2, fun c hc => h.2 c (by simp [hc])⟩
      have hrest' : Memory.wf size rest' := ⟨hp'.2, fun c hc => h'.2 c (by simp [hc])⟩
      rw [ih hrest hrest' fun a => ?_]
      by_cases hab : b = a
      · subst hab
        rw [Memory.read_eq_blank_of_below hp.1, Memory.read_eq_blank_of_below hp'.1]
      · simpa [Memory.read, hab] using hr a

end Sys2Proof.Machine
end

