-- ==== Sys2Proof/Laws/Ortho.lean ====
section
/-! SUPPORT. The bits of the orthogonal transform: within each byte position of the words, ORTHO transposes the 8 by 8 bits
of the eight words (40_engine.md R107, R108). -/

namespace Sys2Proof

/-- Word k of eight words. -/
def EngineWords.word (q : EngineWords) (k : Nat) : Word :=
  match k with
  | 0 => q.q0
  | 1 => q.q1
  | 2 => q.q2
  | 3 => q.q3
  | 4 => q.q4
  | 5 => q.q5
  | 6 => q.q6
  | 7 => q.q7
  | _ => 0

/-- Two groups of eight words with equal bits are equal. -/
theorem EngineWords.ext_bits {x y : EngineWords}
    (h : ∀ k i, k < 8 → i < 32 → (x.word k).getLsbD i = (y.word k).getLsbD i) : x = y := by
  have hw : ∀ k, k < 8 → x.word k = y.word k := fun k hk => BitVec.eq_of_getLsbD_eq fun i hi => h k i hk hi
  exact EngineWords.ext (hw 0 (by omega)) (hw 1 (by omega)) (hw 2 (by omega)) (hw 3 (by omega)) (hw 4 (by omega))
    (hw 5 (by omega)) (hw 6 (by omega)) (hw 7 (by omega))

/-- Bit i of the new x of a swap step whose mask keeps the low half of each group of 2s bits. -/
theorem swapLow_bit {cl : Word} {s : Nat} (hs : 0 < s)
    (hm : ∀ i, i < 32 → cl.getLsbD i = decide (i / s % 2 = 0)) (x y : Word) (i : Nat) (h : i < 32) :
    (swapLow cl s x y).getLsbD i = if i / s % 2 = 0 then x.getLsbD i else y.getLsbD (i - s) := by
  simp only [swapLow, BitVec.getLsbD_or, BitVec.getLsbD_and, BitVec.getLsbD_shiftLeft, hm i h, hm (i - s) (by omega),
    h, decide_true, Bool.true_and]
  have hsub : s ≤ i → (i - s) / s = i / s - 1 := fun hle => by
    rw [show i / s = (i - s) / s + 1 by rw [← Nat.add_div_right _ hs, Nat.sub_add_cancel hle], Nat.add_sub_cancel]
  have hpos : s ≤ i → 1 ≤ i / s := fun hle => Nat.div_pos hle hs
  have hzero : i < s → i / s = 0 := fun hlt => Nat.div_eq_of_lt hlt
  by_cases hp : i / s % 2 = 0
  · by_cases hlt : i < s
    · simp [hp, hlt]
    · have h1 : ¬ (i - s) / s % 2 = 0 := by
        rw [hsub (by omega)]
        have := hpos (by omega)
        generalize i / s = d at *
        omega
      simp [hp, hlt, h1]
  · have hlt : ¬ i < s := fun hlt => hp (by rw [hzero hlt])
    have h1 : (i - s) / s % 2 = 0 := by
      rw [hsub (by omega)]
      have := hpos (by omega)
      generalize i / s = d at *
      omega
    simp [hp, hlt, h1]

/-- Bit i of the new y of a swap step whose mask keeps the high half of each group of 2s bits. -/
theorem swapHigh_bit {ch : Word} {s : Nat} (hs : 0 < s)
    (hm : ∀ i, i < 32 → ch.getLsbD i = decide (i / s % 2 = 1)) (hx : ∀ i, i < 32 → i / s % 2 = 0 → i + s < 32)
    (x y : Word) (i : Nat) (h : i < 32) :
    (swapHigh ch s x y).getLsbD i = if i / s % 2 = 0 then x.getLsbD (i + s) else y.getLsbD i := by
  simp only [swapHigh, BitVec.getLsbD_or, BitVec.getLsbD_and, BitVec.getLsbD_ushiftRight, hm i h]
  have hadd : (s + i) / s = i / s + 1 := by rw [Nat.add_comm, Nat.add_div_right _ hs]
  by_cases hp : i / s % 2 = 0
  · have h32 := hx i h hp
    rw [hm (s + i) (by omega), hadd]
    simp [hp, show (i / s + 1) % 2 = 1 by omega, Nat.add_comm s i]
  · have h1 : i / s % 2 = 1 := by omega
    have hfalse : (x.getLsbD (s + i) && ch.getLsbD (s + i)) = false := by
      rcases Nat.lt_or_ge (s + i) 32 with hlt | hge
      · rw [hm _ hlt, hadd]
        simp [show ¬ (i / s + 1) % 2 = 1 by omega]
      · rw [BitVec.getLsbD_of_ge x _ hge, Bool.false_and]
    rw [hfalse]
    simp [h1]

theorem swapLow1_bit (x y : Word) (i : Nat) :
    (swapLow 0x55555555 1 x y).getLsbD i = if i / 1 % 2 = 0 then x.getLsbD i else y.getLsbD (i - 1) := by
  rcases Nat.lt_or_ge i 32 with h | h
  · exact swapLow_bit (by decide) (by decide) x y i h
  · rw [BitVec.getLsbD_of_ge _ _ h, BitVec.getLsbD_of_ge x _ h]
    split
    · rfl
    · rw [BitVec.getLsbD_of_ge y _ (by omega)]

theorem swapHigh1_bit (x y : Word) (i : Nat) :
    (swapHigh 0xAAAAAAAA 1 x y).getLsbD i = if i / 1 % 2 = 0 then x.getLsbD (i + 1) else y.getLsbD i := by
  rcases Nat.lt_or_ge i 32 with h | h
  · exact swapHigh_bit (by decide) (by decide) (by decide) x y i h
  · rw [BitVec.getLsbD_of_ge _ _ h, BitVec.getLsbD_of_ge x _ (by omega), BitVec.getLsbD_of_ge y _ h, ite_self]

theorem swapLow2_bit (x y : Word) (i : Nat) :
    (swapLow 0x33333333 2 x y).getLsbD i = if i / 2 % 2 = 0 then x.getLsbD i else y.getLsbD (i - 2) := by
  rcases Nat.lt_or_ge i 32 with h | h
  · exact swapLow_bit (by decide) (by decide) x y i h
  · rw [BitVec.getLsbD_of_ge _ _ h, BitVec.getLsbD_of_ge x _ h]
    split
    · rfl
    · rw [BitVec.getLsbD_of_ge y _ (by omega)]

theorem swapHigh2_bit (x y : Word) (i : Nat) :
    (swapHigh 0xCCCCCCCC 2 x y).getLsbD i = if i / 2 % 2 = 0 then x.getLsbD (i + 2) else y.getLsbD i := by
  rcases Nat.lt_or_ge i 32 with h | h
  · exact swapHigh_bit (by decide) (by decide) (by decide) x y i h
  · rw [BitVec.getLsbD_of_ge _ _ h, BitVec.getLsbD_of_ge x _ (by omega), BitVec.getLsbD_of_ge y _ h, ite_self]

theorem swapLow4_bit (x y : Word) (i : Nat) :
    (swapLow 0x0F0F0F0F 4 x y).getLsbD i = if i / 4 % 2 = 0 then x.getLsbD i else y.getLsbD (i - 4) := by
  rcases Nat.lt_or_ge i 32 with h | h
  · exact swapLow_bit (by decide) (by decide) x y i h
  · rw [BitVec.getLsbD_of_ge _ _ h, BitVec.getLsbD_of_ge x _ h]
    split
    · rfl
    · rw [BitVec.getLsbD_of_ge y _ (by omega)]

theorem swapHigh4_bit (x y : Word) (i : Nat) :
    (swapHigh 0xF0F0F0F0 4 x y).getLsbD i = if i / 4 % 2 = 0 then x.getLsbD (i + 4) else y.getLsbD i := by
  rcases Nat.lt_or_ge i 32 with h | h
  · exact swapHigh_bit (by decide) (by decide) (by decide) x y i h
  · rw [BitVec.getLsbD_of_ge _ _ h, BitVec.getLsbD_of_ge x _ (by omega), BitVec.getLsbD_of_ge y _ h, ite_self]

/-- ORTHO transposes: bit i of word k of the result is bit k of the same byte position of word i mod 8. -/
theorem ortho_bit (q : EngineWords) (k i : Nat) (hk : k < 8) (hi : i < 32) :
    ((ortho q).word k).getLsbD i = (q.word (i % 8)).getLsbD (i / 8 * 8 + k) := by
  interval_cases k <;>
    simp only [ortho, orthoNibbles, orthoPairs, orthoBits, EngineWords.word, swapLow1_bit, swapHigh1_bit, swapLow2_bit,
      swapHigh2_bit, swapLow4_bit, swapHigh4_bit] <;>
    interval_cases i <;> rfl

end Sys2Proof
end

