-- ==== Sys2Proof/Laws/PerInstr.lean ====
section
/-! SUPPORT. The families of lemmas with one lemma for each command. -/

namespace Sys2Proof.Laws

/-- The encoder's word passes the three checks of R75, and its operation code is assigned. -/
def EncodedWordLegal.Statement (i : Instr) : Prop := wordLegal (encode i) = true

theorem EncodedWordLegal.keySetup (v : Bool) : EncodedWordLegal.Statement (.keySetup v) := by
  unfold EncodedWordLegal.Statement
  cases v <;> decide
theorem EncodedWordLegal.aeadEnc : EncodedWordLegal.Statement .aeadEnc := by
  unfold EncodedWordLegal.Statement
  decide
theorem EncodedWordLegal.aeadDec : EncodedWordLegal.Statement .aeadDec := by
  unfold EncodedWordLegal.Statement
  decide
theorem EncodedWordLegal.bcEnc : EncodedWordLegal.Statement .bcEnc := by
  unfold EncodedWordLegal.Statement
  decide
theorem EncodedWordLegal.bcDualKs : EncodedWordLegal.Statement .bcDualKs := by
  unfold EncodedWordLegal.Statement
  decide
theorem EncodedWordLegal.bcTag1 : EncodedWordLegal.Statement .bcTag1 := by
  unfold EncodedWordLegal.Statement
  decide
theorem EncodedWordLegal.bcTag2 : EncodedWordLegal.Statement .bcTag2 := by
  unfold EncodedWordLegal.Statement
  decide
theorem EncodedWordLegal.qLoad1 : EncodedWordLegal.Statement .qLoad1 := by
  unfold EncodedWordLegal.Statement
  decide
theorem EncodedWordLegal.qLoad2 : EncodedWordLegal.Statement .qLoad2 := by
  unfold EncodedWordLegal.Statement
  decide
theorem EncodedWordLegal.qStore1 : EncodedWordLegal.Statement .qStore1 := by
  unfold EncodedWordLegal.Statement
  decide
theorem EncodedWordLegal.qStore2 : EncodedWordLegal.Statement .qStore2 := by
  unfold EncodedWordLegal.Statement
  decide
theorem EncodedWordLegal.qOrtho : EncodedWordLegal.Statement .qOrtho := by
  unfold EncodedWordLegal.Statement
  decide
theorem EncodedWordLegal.qAddrk : EncodedWordLegal.Statement .qAddrk := by
  unfold EncodedWordLegal.Statement
  decide
theorem EncodedWordLegal.qSub : EncodedWordLegal.Statement .qSub := by
  unfold EncodedWordLegal.Statement
  decide
theorem EncodedWordLegal.qSr : EncodedWordLegal.Statement .qSr := by
  unfold EncodedWordLegal.Statement
  decide
theorem EncodedWordLegal.qMc : EncodedWordLegal.Statement .qMc := by
  unfold EncodedWordLegal.Statement
  decide

end Sys2Proof.Laws
end

