-- ==== Sys2Proof/Laws/State.lean ====
section
/-! SUPPORT. One lemma for each field under each update of the state, true by rfl and known to simp, so that no proof
unfolds a record update; and the lemmas of the values that views of the state take under the updates. -/

namespace Sys2Proof.Machine

variable (s : State)

@[simp] theorem State.finish_cfg (c : ErrCode) : (s.finish c).cfg = s.cfg := rfl
@[simp] theorem State.finish_regs (c : ErrCode) : (s.finish c).regs = s.regs := rfl
@[simp] theorem State.finish_pending (c : ErrCode) : (s.finish c).pending = s.pending := rfl
@[simp] theorem State.finish_err (c : ErrCode) : (s.finish c).err = c := rfl
@[simp] theorem State.finish_busy (c : ErrCode) : (s.finish c).busy = false := rfl
@[simp] theorem State.finish_keyValid (c : ErrCode) : (s.finish c).keyValid = s.keyValid := rfl
@[simp] theorem State.finish_variant (c : ErrCode) : (s.finish c).variant = s.variant := rfl
@[simp] theorem State.finish_dk (c : ErrCode) : (s.finish c).dk = s.dk := rfl
@[simp] theorem State.finish_q (c : ErrCode) : (s.finish c).q = s.q := rfl
@[simp] theorem State.finish_mem (c : ErrCode) : (s.finish c).mem = s.mem := rfl
@[simp] theorem State.finish_fault (c : ErrCode) : (s.finish c).fault = s.fault := rfl
@[simp] theorem State.finish_awaiting (c : ErrCode) : (s.finish c).awaiting = s.awaiting := rfl
@[simp] theorem State.finish_draws (c : ErrCode) : (s.finish c).draws = s.draws := rfl
@[simp] theorem State.finish_agenda (c : ErrCode) : (s.finish c).agenda = s.agenda := rfl
@[simp] theorem State.finish_seen (c : ErrCode) : (s.finish c).seen = s.seen := rfl

@[simp] theorem State.drawQ_cfg : (s.drawQ).cfg = s.cfg := rfl
@[simp] theorem State.drawQ_regs : (s.drawQ).regs = s.regs := rfl
@[simp] theorem State.drawQ_pending : (s.drawQ).pending = s.pending := rfl
@[simp] theorem State.drawQ_err : (s.drawQ).err = s.err := rfl
@[simp] theorem State.drawQ_busy : (s.drawQ).busy = s.busy := rfl
@[simp] theorem State.drawQ_keyValid : (s.drawQ).keyValid = s.keyValid := rfl
@[simp] theorem State.drawQ_variant : (s.drawQ).variant = s.variant := rfl
@[simp] theorem State.drawQ_dk : (s.drawQ).dk = s.dk := rfl
@[simp] theorem State.drawQ_mem : (s.drawQ).mem = s.mem := rfl
@[simp] theorem State.drawQ_fault : (s.drawQ).fault = s.fault := rfl
@[simp] theorem State.drawQ_awaiting : (s.drawQ).awaiting = s.awaiting := rfl
@[simp] theorem State.drawQ_draws : (s.drawQ).draws = s.draws + 8 := rfl
@[simp] theorem State.drawQ_agenda : (s.drawQ).agenda = s.agenda := rfl
@[simp] theorem State.drawQ_seen : (s.drawQ).seen = s.seen := rfl

@[simp] theorem State.finishKeyed_cfg (c : ErrCode) : (s.finishKeyed c).cfg = s.cfg := rfl
@[simp] theorem State.finishKeyed_regs (c : ErrCode) : (s.finishKeyed c).regs = s.regs := rfl
@[simp] theorem State.finishKeyed_pending (c : ErrCode) : (s.finishKeyed c).pending = s.pending := rfl
@[simp] theorem State.finishKeyed_err (c : ErrCode) : (s.finishKeyed c).err = c := rfl
@[simp] theorem State.finishKeyed_busy (c : ErrCode) : (s.finishKeyed c).busy = false := rfl
@[simp] theorem State.finishKeyed_keyValid (c : ErrCode) : (s.finishKeyed c).keyValid = s.keyValid := rfl
@[simp] theorem State.finishKeyed_variant (c : ErrCode) : (s.finishKeyed c).variant = s.variant := rfl
@[simp] theorem State.finishKeyed_dk (c : ErrCode) : (s.finishKeyed c).dk = s.dk := rfl
@[simp] theorem State.finishKeyed_q (c : ErrCode) : (s.finishKeyed c).q = s.drawQ.q := rfl
@[simp] theorem State.finishKeyed_mem (c : ErrCode) : (s.finishKeyed c).mem = s.mem := rfl
@[simp] theorem State.finishKeyed_fault (c : ErrCode) : (s.finishKeyed c).fault = s.fault := rfl
@[simp] theorem State.finishKeyed_awaiting (c : ErrCode) : (s.finishKeyed c).awaiting = s.awaiting := rfl
@[simp] theorem State.finishKeyed_draws (c : ErrCode) : (s.finishKeyed c).draws = s.draws + 8 := rfl
@[simp] theorem State.finishKeyed_agenda (c : ErrCode) : (s.finishKeyed c).agenda = s.agenda := rfl
@[simp] theorem State.finishKeyed_seen (c : ErrCode) : (s.finishKeyed c).seen = s.seen := rfl

@[simp] theorem State.setMem_cfg (m : Memory) : (s.setMem m).cfg = s.cfg := rfl
@[simp] theorem State.setMem_regs (m : Memory) : (s.setMem m).regs = s.regs := rfl
@[simp] theorem State.setMem_pending (m : Memory) : (s.setMem m).pending = s.pending := rfl
@[simp] theorem State.setMem_err (m : Memory) : (s.setMem m).err = s.err := rfl
@[simp] theorem State.setMem_busy (m : Memory) : (s.setMem m).busy = s.busy := rfl
@[simp] theorem State.setMem_keyValid (m : Memory) : (s.setMem m).keyValid = s.keyValid := rfl
@[simp] theorem State.setMem_variant (m : Memory) : (s.setMem m).variant = s.variant := rfl
@[simp] theorem State.setMem_dk (m : Memory) : (s.setMem m).dk = s.dk := rfl
@[simp] theorem State.setMem_q (m : Memory) : (s.setMem m).q = s.q := rfl
@[simp] theorem State.setMem_mem (m : Memory) : (s.setMem m).mem = m := rfl
@[simp] theorem State.setMem_fault (m : Memory) : (s.setMem m).fault = s.fault := rfl
@[simp] theorem State.setMem_awaiting (m : Memory) : (s.setMem m).awaiting = s.awaiting := rfl
@[simp] theorem State.setMem_draws (m : Memory) : (s.setMem m).draws = s.draws := rfl
@[simp] theorem State.setMem_agenda (m : Memory) : (s.setMem m).agenda = s.agenda := rfl
@[simp] theorem State.setMem_seen (m : Memory) : (s.setMem m).seen = s.seen := rfl

@[simp] theorem State.setQ_cfg (w : EngineWords) : (s.setQ w).cfg = s.cfg := rfl
@[simp] theorem State.setQ_regs (w : EngineWords) : (s.setQ w).regs = s.regs := rfl
@[simp] theorem State.setQ_pending (w : EngineWords) : (s.setQ w).pending = s.pending := rfl
@[simp] theorem State.setQ_err (w : EngineWords) : (s.setQ w).err = s.err := rfl
@[simp] theorem State.setQ_busy (w : EngineWords) : (s.setQ w).busy = s.busy := rfl
@[simp] theorem State.setQ_keyValid (w : EngineWords) : (s.setQ w).keyValid = s.keyValid := rfl
@[simp] theorem State.setQ_variant (w : EngineWords) : (s.setQ w).variant = s.variant := rfl
@[simp] theorem State.setQ_dk (w : EngineWords) : (s.setQ w).dk = s.dk := rfl
@[simp] theorem State.setQ_q (w : EngineWords) : (s.setQ w).q = w := rfl
@[simp] theorem State.setQ_mem (w : EngineWords) : (s.setQ w).mem = s.mem := rfl
@[simp] theorem State.setQ_fault (w : EngineWords) : (s.setQ w).fault = s.fault := rfl
@[simp] theorem State.setQ_awaiting (w : EngineWords) : (s.setQ w).awaiting = s.awaiting := rfl
@[simp] theorem State.setQ_draws (w : EngineWords) : (s.setQ w).draws = s.draws := rfl
@[simp] theorem State.setQ_agenda (w : EngineWords) : (s.setQ w).agenda = s.agenda := rfl
@[simp] theorem State.setQ_seen (w : EngineWords) : (s.setQ w).seen = s.seen := rfl

@[simp] theorem State.setKey_cfg (k : Vector Block 17) (v : Variant) : (s.setKey k v).cfg = s.cfg := rfl
@[simp] theorem State.setKey_regs (k : Vector Block 17) (v : Variant) : (s.setKey k v).regs = s.regs := rfl
@[simp] theorem State.setKey_pending (k : Vector Block 17) (v : Variant) : (s.setKey k v).pending = s.pending := rfl
@[simp] theorem State.setKey_err (k : Vector Block 17) (v : Variant) : (s.setKey k v).err = s.err := rfl
@[simp] theorem State.setKey_busy (k : Vector Block 17) (v : Variant) : (s.setKey k v).busy = s.busy := rfl
@[simp] theorem State.setKey_keyValid (k : Vector Block 17) (v : Variant) : (s.setKey k v).keyValid = true := rfl
@[simp] theorem State.setKey_variant (k : Vector Block 17) (v : Variant) : (s.setKey k v).variant = v := rfl
@[simp] theorem State.setKey_dk (k : Vector Block 17) (v : Variant) : (s.setKey k v).dk = k := rfl
@[simp] theorem State.setKey_q (k : Vector Block 17) (v : Variant) : (s.setKey k v).q = s.q := rfl
@[simp] theorem State.setKey_mem (k : Vector Block 17) (v : Variant) : (s.setKey k v).mem = s.mem := rfl
@[simp] theorem State.setKey_fault (k : Vector Block 17) (v : Variant) : (s.setKey k v).fault = s.fault := rfl
@[simp] theorem State.setKey_awaiting (k : Vector Block 17) (v : Variant) : (s.setKey k v).awaiting = s.awaiting := rfl
@[simp] theorem State.setKey_draws (k : Vector Block 17) (v : Variant) : (s.setKey k v).draws = s.draws := rfl
@[simp] theorem State.setKey_agenda (k : Vector Block 17) (v : Variant) : (s.setKey k v).agenda = s.agenda := rfl
@[simp] theorem State.setKey_seen (k : Vector Block 17) (v : Variant) : (s.setKey k v).seen = s.seen := rfl

@[simp] theorem State.setRegs_cfg (r : Descriptors) : (s.setRegs r).cfg = s.cfg := rfl
@[simp] theorem State.setRegs_regs (r : Descriptors) : (s.setRegs r).regs = r := rfl
@[simp] theorem State.setRegs_pending (r : Descriptors) : (s.setRegs r).pending = s.pending := rfl
@[simp] theorem State.setRegs_err (r : Descriptors) : (s.setRegs r).err = s.err := rfl
@[simp] theorem State.setRegs_busy (r : Descriptors) : (s.setRegs r).busy = s.busy := rfl
@[simp] theorem State.setRegs_keyValid (r : Descriptors) : (s.setRegs r).keyValid = s.keyValid := rfl
@[simp] theorem State.setRegs_variant (r : Descriptors) : (s.setRegs r).variant = s.variant := rfl
@[simp] theorem State.setRegs_dk (r : Descriptors) : (s.setRegs r).dk = s.dk := rfl
@[simp] theorem State.setRegs_q (r : Descriptors) : (s.setRegs r).q = s.q := rfl
@[simp] theorem State.setRegs_mem (r : Descriptors) : (s.setRegs r).mem = s.mem := rfl
@[simp] theorem State.setRegs_fault (r : Descriptors) : (s.setRegs r).fault = s.fault := rfl
@[simp] theorem State.setRegs_awaiting (r : Descriptors) : (s.setRegs r).awaiting = s.awaiting := rfl
@[simp] theorem State.setRegs_draws (r : Descriptors) : (s.setRegs r).draws = s.draws := rfl
@[simp] theorem State.setRegs_agenda (r : Descriptors) : (s.setRegs r).agenda = s.agenda := rfl
@[simp] theorem State.setRegs_seen (r : Descriptors) : (s.setRegs r).seen = s.seen := rfl

@[simp] theorem State.issue_cfg (w : Word) : (s.issue w).cfg = s.cfg := rfl
@[simp] theorem State.issue_regs (w : Word) : (s.issue w).regs = s.regs := rfl
@[simp] theorem State.issue_pending (w : Word) : (s.issue w).pending = w := rfl
@[simp] theorem State.issue_err (w : Word) : (s.issue w).err = .ok := rfl
@[simp] theorem State.issue_busy (w : Word) : (s.issue w).busy = true := rfl
@[simp] theorem State.issue_keyValid (w : Word) : (s.issue w).keyValid = s.keyValid := rfl
@[simp] theorem State.issue_variant (w : Word) : (s.issue w).variant = s.variant := rfl
@[simp] theorem State.issue_dk (w : Word) : (s.issue w).dk = s.dk := rfl
@[simp] theorem State.issue_q (w : Word) : (s.issue w).q = s.q := rfl
@[simp] theorem State.issue_mem (w : Word) : (s.issue w).mem = s.mem := rfl
@[simp] theorem State.issue_fault (w : Word) : (s.issue w).fault = s.fault := rfl
@[simp] theorem State.issue_awaiting (w : Word) : (s.issue w).awaiting = true := rfl
@[simp] theorem State.issue_draws (w : Word) : (s.issue w).draws = s.draws := rfl
@[simp] theorem State.issue_agenda (w : Word) : (s.issue w).agenda = s.agenda := rfl
@[simp] theorem State.issue_seen (w : Word) : (s.issue w).seen = s.seen := rfl

@[simp] theorem State.mark_cfg (v : Violation) : (s.mark v).cfg = s.cfg := rfl
@[simp] theorem State.mark_regs (v : Violation) : (s.mark v).regs = s.regs := rfl
@[simp] theorem State.mark_pending (v : Violation) : (s.mark v).pending = s.pending := rfl
@[simp] theorem State.mark_err (v : Violation) : (s.mark v).err = s.err := rfl
@[simp] theorem State.mark_busy (v : Violation) : (s.mark v).busy = s.busy := rfl
@[simp] theorem State.mark_keyValid (v : Violation) : (s.mark v).keyValid = s.keyValid := rfl
@[simp] theorem State.mark_variant (v : Violation) : (s.mark v).variant = s.variant := rfl
@[simp] theorem State.mark_dk (v : Violation) : (s.mark v).dk = s.dk := rfl
@[simp] theorem State.mark_q (v : Violation) : (s.mark v).q = s.q := rfl
@[simp] theorem State.mark_mem (v : Violation) : (s.mark v).mem = s.mem := rfl
@[simp] theorem State.mark_fault (v : Violation) : (s.mark v).fault = some (s.fault.getD v) := rfl
@[simp] theorem State.mark_awaiting (v : Violation) : (s.mark v).awaiting = s.awaiting := rfl
@[simp] theorem State.mark_draws (v : Violation) : (s.mark v).draws = s.draws := rfl
@[simp] theorem State.mark_agenda (v : Violation) : (s.mark v).agenda = s.agenda := rfl
@[simp] theorem State.mark_seen (v : Violation) : (s.mark v).seen = s.seen := rfl

@[simp] theorem State.record_cfg (r : Reading) : (s.record r).cfg = s.cfg := rfl
@[simp] theorem State.record_regs (r : Reading) : (s.record r).regs = s.regs := rfl
@[simp] theorem State.record_pending (r : Reading) : (s.record r).pending = s.pending := rfl
@[simp] theorem State.record_err (r : Reading) : (s.record r).err = s.err := rfl
@[simp] theorem State.record_busy (r : Reading) : (s.record r).busy = s.busy := rfl
@[simp] theorem State.record_keyValid (r : Reading) : (s.record r).keyValid = s.keyValid := rfl
@[simp] theorem State.record_variant (r : Reading) : (s.record r).variant = s.variant := rfl
@[simp] theorem State.record_dk (r : Reading) : (s.record r).dk = s.dk := rfl
@[simp] theorem State.record_q (r : Reading) : (s.record r).q = s.q := rfl
@[simp] theorem State.record_mem (r : Reading) : (s.record r).mem = s.mem := rfl
@[simp] theorem State.record_fault (r : Reading) : (s.record r).fault = s.fault := rfl
@[simp] theorem State.record_awaiting (r : Reading) : (s.record r).awaiting = s.awaiting := rfl
@[simp] theorem State.record_draws (r : Reading) : (s.record r).draws = s.draws := rfl
@[simp] theorem State.record_agenda (r : Reading) : (s.record r).agenda = s.agenda := rfl
@[simp] theorem State.record_seen (r : Reading) : (s.record r).seen = s.seen ++ [r] := rfl

@[simp] theorem State.setAgenda_cfg (t : List Turn) : (s.setAgenda t).cfg = s.cfg := rfl
@[simp] theorem State.setAgenda_regs (t : List Turn) : (s.setAgenda t).regs = s.regs := rfl
@[simp] theorem State.setAgenda_pending (t : List Turn) : (s.setAgenda t).pending = s.pending := rfl
@[simp] theorem State.setAgenda_err (t : List Turn) : (s.setAgenda t).err = s.err := rfl
@[simp] theorem State.setAgenda_busy (t : List Turn) : (s.setAgenda t).busy = s.busy := rfl
@[simp] theorem State.setAgenda_keyValid (t : List Turn) : (s.setAgenda t).keyValid = s.keyValid := rfl
@[simp] theorem State.setAgenda_variant (t : List Turn) : (s.setAgenda t).variant = s.variant := rfl
@[simp] theorem State.setAgenda_dk (t : List Turn) : (s.setAgenda t).dk = s.dk := rfl
@[simp] theorem State.setAgenda_q (t : List Turn) : (s.setAgenda t).q = s.q := rfl
@[simp] theorem State.setAgenda_mem (t : List Turn) : (s.setAgenda t).mem = s.mem := rfl
@[simp] theorem State.setAgenda_fault (t : List Turn) : (s.setAgenda t).fault = s.fault := rfl
@[simp] theorem State.setAgenda_awaiting (t : List Turn) : (s.setAgenda t).awaiting = s.awaiting := rfl
@[simp] theorem State.setAgenda_draws (t : List Turn) : (s.setAgenda t).draws = s.draws := rfl
@[simp] theorem State.setAgenda_agenda (t : List Turn) : (s.setAgenda t).agenda = t := rfl
@[simp] theorem State.setAgenda_seen (t : List Turn) : (s.setAgenda t).seen = s.seen := rfl

@[simp] theorem State.store_cfg (p : Word) (v : List Byte) : (s.store p v).cfg = s.cfg := rfl
@[simp] theorem State.store_regs (p : Word) (v : List Byte) : (s.store p v).regs = s.regs := rfl
@[simp] theorem State.store_pending (p : Word) (v : List Byte) : (s.store p v).pending = s.pending := rfl
@[simp] theorem State.store_err (p : Word) (v : List Byte) : (s.store p v).err = s.err := rfl
@[simp] theorem State.store_busy (p : Word) (v : List Byte) : (s.store p v).busy = s.busy := rfl
@[simp] theorem State.store_keyValid (p : Word) (v : List Byte) : (s.store p v).keyValid = s.keyValid := rfl
@[simp] theorem State.store_variant (p : Word) (v : List Byte) : (s.store p v).variant = s.variant := rfl
@[simp] theorem State.store_dk (p : Word) (v : List Byte) : (s.store p v).dk = s.dk := rfl
@[simp] theorem State.store_q (p : Word) (v : List Byte) : (s.store p v).q = s.q := rfl
@[simp] theorem State.store_mem (p : Word) (v : List Byte) : (s.store p v).mem = s.mem.writeBytes p.toNat v := rfl
@[simp] theorem State.store_fault (p : Word) (v : List Byte) : (s.store p v).fault = s.fault := rfl
@[simp] theorem State.store_awaiting (p : Word) (v : List Byte) : (s.store p v).awaiting = s.awaiting := rfl
@[simp] theorem State.store_draws (p : Word) (v : List Byte) : (s.store p v).draws = s.draws := rfl
@[simp] theorem State.store_agenda (p : Word) (v : List Byte) : (s.store p v).agenda = s.agenda := rfl
@[simp] theorem State.store_seen (p : Word) (v : List Byte) : (s.store p v).seen = s.seen := rfl

@[simp] theorem State.applyReset_cfg : (s.applyReset).cfg = s.cfg := rfl
@[simp] theorem State.applyReset_regs : (s.applyReset).regs = Descriptors.zero := rfl
@[simp] theorem State.applyReset_pending : (s.applyReset).pending = 0 := rfl
@[simp] theorem State.applyReset_err : (s.applyReset).err = .ok := rfl
@[simp] theorem State.applyReset_busy : (s.applyReset).busy = false := rfl
@[simp] theorem State.applyReset_keyValid : (s.applyReset).keyValid = false := rfl
@[simp] theorem State.applyReset_variant : (s.applyReset).variant = .constantTime := rfl
@[simp] theorem State.applyReset_dk : (s.applyReset).dk = State.reset.dk := rfl
@[simp] theorem State.applyReset_q : (s.applyReset).q = zeroWords := rfl
@[simp] theorem State.applyReset_mem : (s.applyReset).mem = s.mem := rfl
@[simp] theorem State.applyReset_fault : (s.applyReset).fault = none := rfl
@[simp] theorem State.applyReset_awaiting : (s.applyReset).awaiting = false := rfl
@[simp] theorem State.applyReset_draws : (s.applyReset).draws = s.draws := rfl
@[simp] theorem State.applyReset_agenda : (s.applyReset).agenda = s.agenda := rfl
@[simp] theorem State.applyReset_seen : (s.applyReset).seen = s.seen := rfl

@[simp] theorem State.statusRead_cfg : s.statusRead.cfg = s.cfg := rfl
@[simp] theorem State.statusRead_regs : s.statusRead.regs = s.regs := rfl
@[simp] theorem State.statusRead_pending : s.statusRead.pending = s.pending := rfl
@[simp] theorem State.statusRead_err : s.statusRead.err = s.err := rfl
@[simp] theorem State.statusRead_busy : s.statusRead.busy = s.busy := rfl
@[simp] theorem State.statusRead_keyValid : s.statusRead.keyValid = s.keyValid := rfl
@[simp] theorem State.statusRead_variant : s.statusRead.variant = s.variant := rfl
@[simp] theorem State.statusRead_dk : s.statusRead.dk = s.dk := rfl
@[simp] theorem State.statusRead_q : s.statusRead.q = s.q := rfl
@[simp] theorem State.statusRead_mem : s.statusRead.mem = s.mem := rfl
@[simp] theorem State.statusRead_fault : s.statusRead.fault = s.fault := rfl
@[simp] theorem State.statusRead_awaiting : s.statusRead.awaiting = (s.awaiting && s.busy) := rfl
@[simp] theorem State.statusRead_draws : s.statusRead.draws = s.draws := rfl
@[simp] theorem State.statusRead_agenda : s.statusRead.agenda = s.agenda := rfl
@[simp] theorem State.statusRead_seen : s.statusRead.seen = s.seen := rfl

/-- A read of STATUS may settle the read that R273 asks for; a read of any other register leaves the state. -/
@[simp] theorem State.afterRead_status : s.afterRead .status = s.statusRead := rfl

theorem State.afterRead_of_ne {r : Reg} (h : r ≠ .status) : s.afterRead r = s := by simp [State.afterRead, h]

/-- STATUS after `finish`: the new code, BUSY 0, the two other fields as they were. -/
@[simp] theorem State.finish_status (c : ErrCode) : (s.finish c).status = statusWord c false s.keyValid s.variant := rfl

/-- STATUS after the end of a keyed command. -/
@[simp] theorem State.finishKeyed_status (c : ErrCode) :
    (s.finishKeyed c).status = statusWord c false s.keyValid s.variant := rfl

/-- STATUS after a CMD write: ERR 0, BUSY 1. -/
@[simp] theorem State.issue_status (w : Word) : (s.issue w).status = statusWord .ok true s.keyValid s.variant := rfl

end Sys2Proof.Machine
end

