-- ==== Sys2Proof/Laws/Step.lean ====
section
/-! SUPPORT. What each shared operation of a step can do, said once: the turns, the core's step, the host's actions and
the checks of a command. Later proofs cite these and do not unfold the operations. -/

namespace Sys2Proof.Machine

/-! ### The checks of a command -/

@[simp] theorem firstError_nil : firstError [] = none := rfl

@[simp] theorem firstError_cons (b : Bool) (e : ErrCode) (rest : List (Bool × ErrCode)) :
    firstError ((b, e) :: rest) = if b then some e else firstError rest := rfl

/-- No error is reported exactly when no check of the list applies. -/
theorem firstError_eq_none {l : List (Bool × ErrCode)} : firstError l = none ↔ ∀ c ∈ l, c.1 = false := by
  induction l with
  | nil => simp
  | cons c l ih =>
    obtain ⟨b, e⟩ := c
    cases b <;> simp [ih]

/-- An error that is reported belongs to a check of the list that applies. -/
theorem firstError_mem {l : List (Bool × ErrCode)} {e : ErrCode} (h : firstError l = some e) : (true, e) ∈ l := by
  induction l with
  | nil => simp at h
  | cons c l ih =>
    obtain ⟨b, d⟩ := c
    cases b
    · exact List.mem_cons_of_mem _ (ih (by simpa using h))
    · simp only [firstError_cons, if_true, Option.some.injEq] at h
      simp [h]

/-! ### Turns -/

/-- Everything one step of the machine can do: a reset; a turn of the host or of the core from an unmarked state; or the
fault of a marked one. -/
theorem step_cases (s : State) :
    (∃ rest, s.agenda = .reset :: rest ∧ step s = .next (s.setAgenda rest).applyReset) ∨
    (∃ a rest, s.agenda = .host a :: rest ∧ s.fault = none ∧ step s = hostStep a (s.setAgenda rest)) ∨
    ((s.agenda = [] ∨ ∃ rest, s.agenda = .core :: rest) ∧ s.fault = none ∧
      step s = coreStep (s.setAgenda s.agenda.tail)) ∨
    (∃ v, s.fault = some v ∧ (∀ rest, s.agenda ≠ .reset :: rest) ∧ step s = .fault (.hostProtocol v)) := by
  unfold step machineStep
  rcases hag : s.agenda with _ | ⟨t, rest⟩ <;> rcases hf : s.fault with _ | v
  · exact Or.inr (Or.inr (Or.inl ⟨Or.inl rfl, rfl, rfl⟩))
  · exact Or.inr (Or.inr (Or.inr ⟨v, rfl, by simp, rfl⟩))
  · rcases t with a | _ | _
    · exact Or.inr (Or.inl ⟨a, rest, rfl, rfl, rfl⟩)
    · exact Or.inr (Or.inr (Or.inl ⟨Or.inr ⟨rest, rfl⟩, rfl, rfl⟩))
    · exact Or.inl ⟨rest, rfl, rfl⟩
  · rcases t with a | _ | _
    · exact Or.inr (Or.inr (Or.inr ⟨v, rfl, by simp, rfl⟩))
    · exact Or.inr (Or.inr (Or.inr ⟨v, rfl, by simp, rfl⟩))
    · exact Or.inl ⟨rest, rfl, rfl⟩

/-- Everything the core's step can do: nothing while BUSY = 0; ILLEGAL for a word that does not decode; else the command
of the word in PENDING. -/
theorem coreStep_cases (s : State) :
    (s.busy = false ∧ coreStep s = .next s) ∨
    (s.busy = true ∧ (∃ e, decodeWord s.pending = .error e) ∧ coreStep s = .next (s.finish .illegal)) ∨
    (s.busy = true ∧ ∃ i, decodeWord s.pending = .ok i ∧ coreStep s = exec i s) := by
  unfold coreStep
  cases hb : s.busy
  · exact Or.inl ⟨rfl, by simp⟩
  · rcases hd : decodeWord s.pending with e | i
    · exact Or.inr (Or.inl ⟨rfl, ⟨e, rfl⟩, by simp⟩)
    · exact Or.inr (Or.inr ⟨rfl, i, rfl, by simp⟩)

/-- The host is not barred exactly when no command is pending and the read of STATUS that R273 asks for is done. -/
theorem State.hostBarred_eq_none {s : State} : s.hostBarred = none ↔ s.busy = false ∧ s.awaiting = false := by
  unfold State.hostBarred
  cases s.busy <;> cases s.awaiting <;> simp

@[simp] theorem State.hostBarred_of_busy {s : State} (h : s.busy = true) : s.hostBarred = some .accessWhileBusy := by
  simp [State.hostBarred, h]

@[simp] theorem State.hostBarred_of_awaiting {s : State} (h : s.busy = false) (ha : s.awaiting = true) :
    s.hostBarred = some .accessBeforeStatusRead := by
  simp [State.hostBarred, h, ha]

@[simp] theorem State.hostBarred_of_free {s : State} (h : s.busy = false) (ha : s.awaiting = false) :
    s.hostBarred = none := State.hostBarred_eq_none.2 ⟨h, ha⟩

/-- Everything a host action can lead to: a mark; a register write or a byte string written while the host is not barred;
a reading, after a read of STATUS with that read noted; or the fault of an address outside M. -/
theorem hostStep_cases (a : HostAct) (s : State) :
    (∃ v, hostStep a s = .next (s.mark v)) ∨
    (s.hostBarred = none ∧ ∃ r v, hostStep a s = .next (s.writeReg v r)) ∨
    (s.hostBarred = none ∧
      ∃ p v, insideM s.cfg p v.length = true ∧ hostStep a s = .next (s.setMem (s.mem.writeBytes p v))) ∨
    (∃ r, hostStep a s = .next (s.record r)) ∨
    (∃ r, hostStep a s = .next (s.record r).statusRead) ∨
    (s.hostBarred = none ∧ hostStep a s = .fault .addressOutsideM) := by
  cases a with
  | regWrite o w v =>
    simp only [hostStep, hostRegWrite]
    rcases regOfAccess o w with _ | r
    · exact Or.inl ⟨_, rfl⟩
    · rcases hb : s.hostBarred with _ | k
      · exact Or.inr (Or.inl ⟨rfl, r, v, rfl⟩)
      · exact Or.inl ⟨k, rfl⟩
  | regRead o w =>
    simp only [hostStep, hostRegRead]
    rcases regOfAccess o w with _ | r
    · exact Or.inl ⟨_, rfl⟩
    · by_cases hr : r = .status
      · subst hr
        exact Or.inr (Or.inr (Or.inr (Or.inr (Or.inl ⟨_, rfl⟩))))
      · exact Or.inr (Or.inr (Or.inr (Or.inl ⟨.reg o (s.readReg r), by simp only [State.afterRead_of_ne _ hr]⟩)))
  | memWrite p v =>
    simp only [hostStep, hostMemWrite]
    rcases hb : s.hostBarred with _ | k
    · cases hi : insideM s.cfg p v.length
      · exact Or.inr (Or.inr (Or.inr (Or.inr (Or.inr ⟨rfl, by simp⟩))))
      · exact Or.inr (Or.inr (Or.inl ⟨rfl, p, v, hi, by simp⟩))
    · exact Or.inl ⟨k, rfl⟩
  | memRead p n =>
    simp only [hostStep, hostMemRead]
    rcases hb : s.hostBarred with _ | k
    · cases hi : insideM s.cfg p n
      · exact Or.inr (Or.inr (Or.inr (Or.inr (Or.inr ⟨rfl, by simp⟩))))
      · exact Or.inr (Or.inr (Or.inr (Or.inl ⟨.mem p (s.mem.readBytes p n), by simp⟩)))
    · exact Or.inl ⟨k, rfl⟩

/-! ### Regions -/

/-- The range check in arithmetic (R55). -/
theorem Region.inRange_iff (c : Config) (r : Region) :
    r.inRange c = true ↔ r.len = 0 ∨ r.ptr.toNat + r.len ≤ c.memSize := by
  simp [Region.inRange]

/-- The overlap test in arithmetic (R56). -/
theorem Region.overlaps_iff (r t : Region) :
    r.overlaps t = true ↔
      0 < r.len ∧ 0 < t.len ∧ r.ptr.toNat < t.ptr.toNat + t.len ∧ t.ptr.toNat < r.ptr.toNat + r.len := by
  simp [Region.overlaps]

/-- RANGE does not apply exactly when every region is in range (R250). -/
theorem State.outOfRange_eq_false (s : State) (rs : List Region) :
    s.outOfRange rs = false ↔ ∀ r ∈ rs, r.inRange s.cfg = true := by
  simp [State.outOfRange]

/-- When OVERLAP does not apply to an AEAD output region (R251). -/
theorem State.outputOverlaps_eq_false (s : State) (rd : Region) :
    s.outputOverlaps rd = false ↔ rd.overlaps s.nonceRegion = false ∧ rd.overlaps s.adRegion = false ∧
      (rd.overlaps s.inputRegion = false ∨ s.regs.dstPtr = s.regs.srcPtr) := by
  cases h : rd.overlaps s.inputRegion <;> simp [State.outputOverlaps, h, and_assoc]

/-- When a host access lies in M (20_memory.md R50, R55). -/
theorem insideM_iff (c : Config) (a n : Nat) : insideM c a n = true ↔ n = 0 ∨ a + n ≤ c.memSize := by simp [insideM]

/-! ### When no check of a command applies, in arithmetic (R242) -/

/-- KEY_SETUP computes exactly with KEY_LEN = 32 and the key in M. -/
theorem State.keyError_eq_none (s : State) :
    s.keyError = none ↔ s.regs.keyLen = 32 ∧ s.keyRegion.inRange s.cfg = true := by
  rw [State.keyError, firstError_eq_none]
  simp [State.outOfRange]

/-- A BC_* command computes exactly with a key and its three regions in M. -/
theorem State.cipherError_eq_none (s : State) (t b o : Nat) :
    s.cipherError t b o = none ↔ s.keyValid = true ∧ (s.auxRegion t).inRange s.cfg = true ∧
      (s.srcRegion b).inRange s.cfg = true ∧ (s.dstRegion o).inRange s.cfg = true := by
  rw [State.cipherError, firstError_eq_none]
  simp [State.outOfRange]

/-- AEAD_ENC computes exactly with a key, a 15-byte nonce, its four regions in M and no forbidden overlap. -/
theorem State.encError_eq_none (s : State) :
    s.encError = none ↔ s.keyValid = true ∧ s.regs.nonceLen = 15 ∧
      s.outOfRange [s.nonceRegion, s.adRegion, s.inputRegion, s.dstRegion (s.regs.srcLen.toNat + 16)] = false ∧
      s.outputOverlaps (s.dstRegion (s.regs.srcLen.toNat + 16)) = false := by
  rw [State.encError, firstError_eq_none]
  simp

/-- AEAD_DEC computes exactly with a key, a 15-byte nonce, an input of 16 bytes or more, its four regions in M and no
forbidden overlap. -/
theorem State.decError_eq_none (s : State) :
    s.decError = none ↔ s.keyValid = true ∧ s.regs.nonceLen = 15 ∧ 16 ≤ s.regs.srcLen.toNat ∧
      s.outOfRange [s.nonceRegion, s.adRegion, s.inputRegion, s.dstRegion (s.regs.srcLen.toNat - 16)] = false ∧
      s.outputOverlaps (s.dstRegion (s.regs.srcLen.toNat - 16)) = false := by
  rw [State.decError, firstError_eq_none]
  simp

end Sys2Proof.Machine
end

