-- ==== Sys2Proof/Tests/Slice0.lean ====
section
/-! SUPPORT. Tests of the model on values of the spec (95_test_vectors.md and the examples of the rules), and a witness
for every statement that has hypotheses. -/

namespace Sys2Proof.Tests

open Sys2Proof Sys2Proof.Machine Sys2Proof.Statements

set_option Elab.async false

/-! ### Helpers -/

/-- The outcome is a next state with a property. -/
def nextHolds (o : Host.Outcome State Fault Refusal) (p : State → Bool) : Bool :=
  match o with
  | .next t => p t
  | .fault _ => false
  | .refused _ => false

/-- A next state with a property, taken out of `nextHolds`. -/
theorem exists_of_nextHolds {o : Host.Outcome State Fault Refusal} {p : State → Bool} (h : nextHolds o p = true) :
    ∃ t, o = .next t ∧ p t = true := by
  cases o with
  | next t => exact ⟨t, rfl, h⟩
  | fault r => cases h
  | refused r => cases h

/-- The same for a decidable property. -/
theorem exists_next {o : Host.Outcome State Fault Refusal} {P : State → Prop} [DecidablePred P]
    (h : nextHolds o (fun t => decide (P t)) = true) : ∃ t, o = .next t ∧ P t := by
  obtain ⟨t, ht, hp⟩ := exists_of_nextHolds h
  exact ⟨t, ht, of_decide_eq_true hp⟩

/-- The step that runs a command word from a state ends in a next state with a property. -/
def runs (w : Nat) (s : State) (p : State → Bool) : Bool := nextHolds (step (s.withFetchWord 32 w)) p

/-- M of 95_test_vectors.md section 2.5: the key at 0x100, N at 0x140, AD = 00 at 0x200 (an unlisted byte reads 0 too),
P = 202122..30 at 0x300. -/
def mem25 : Memory :=
  Memory.writeBytes (Memory.writeBytes (Memory.writeBytes (Memory.writeBytes [] 0x100 (count 0 32)) 0x140 (count 0 15))
    0x200 [0x00]) 0x300 (count 0x20 17)

/-- The registers of section 2.5, with KEY_PTR and KEY_LEN as E7 has them. -/
def regs25 : Descriptors :=
  { keyPtr := 0x100, keyLen := 32, noncePtr := 0x140, nonceLen := 15, adPtr := 0x200, adLen := 1, srcPtr := 0x300,
    srcLen := 17, dstPtr := 0x400, auxPtr := 0x500 }

/-- The machine of section 2.5: MEM_SIZE = 0x1000, no key yet. -/
def start : State := (State.launch ⟨0xFFF⟩ mem25 []).setRegs regs25

/-- The same machine with the key 000102..1f set up. -/
def keyed : State := start.setKey (deriveK (count 0 32)) .constantTime

/-- A state with other bytes written into M. -/
def withBytes (s : State) (a : Nat) (b : List Byte) : State := s.setMem (s.mem.writeBytes a b)

/-- A state with other SRC, DST and AUX pointers. -/
def withPtrs (s : State) (src dst aux : Word) : State :=
  s.setRegs { s.regs with srcPtr := src, dstPtr := dst, auxPtr := aux }

/-- The output of P1 (95_test_vectors.md section 3). -/
def sealed : List Byte :=
  [0x8b, 0x9e, 0xe2, 0x07, 0x99, 0x50, 0x49, 0x5f, 0x6c, 0x58, 0xbd, 0x4a, 0xf6, 0xaf, 0x6e, 0xc5, 0x68,
   0x8e, 0x55, 0x27, 0x0b, 0xc3, 0xf6, 0xe5, 0xec, 0x65, 0x09, 0xde, 0x8a, 0xc7, 0xc4, 0x93, 0x9e]

/-- P2's machine: the output of P1 at 0x400, decrypted in place; the last byte is given. -/
def inPlace (last : Byte) : State :=
  let s := withBytes (withBytes keyed 0x400 sealed) 0x420 [last]
  s.setRegs { s.regs with srcPtr := 0x400, srcLen := 33, dstPtr := 0x400 }

/-! ### Well-formedness: a word that each check refuses, and the words of section 2.5 (30_encoding.md R75) -/

theorem test_wf_refuses_unassigned_op : opAssigned 0x00000039 = false ∧ wordLegal 0x00000039 = false := by decide
theorem test_wf_refuses_reserved_bit_9 : reservedClear 0x00000201 = false ∧ wordLegal 0x00000201 = false := by decide
theorem test_wf_refuses_reserved_bit_31 : reservedClear 0x80000010 = false ∧ wordLegal 0x80000010 = false := by decide
theorem test_wf_refuses_variant_bit : variantAllowed 0x00000111 = false ∧ wordLegal 0x00000111 = false := by decide

theorem test_illegal_words_of_the_spec :
    ([0x00000000, 0x00000002, 0x00000039, 0x000000FF, 0x00000201, 0x00000236, 0x00000111, 0x01000001, 0x80000010] :
      List Word).all (fun w => !wordLegal w && (decodeWord w).toOption == none) = true := by decide

/-! ### Decoding: every command's word as R74 writes it -/

theorem test_decode_key_setup : decodeWord 0b00000000000000000000000000000001 = .ok (.keySetup false) := by rfl
theorem test_decode_key_setup_fast : decodeWord 0b00000000000000000000000100000001 = .ok (.keySetup true) := by rfl
theorem test_decode_aead_enc : decodeWord 0b00000000000000000000000000010000 = .ok .aeadEnc := by rfl
theorem test_decode_aead_dec : decodeWord 0b00000000000000000000000000010001 = .ok .aeadDec := by rfl
theorem test_decode_bc_enc : decodeWord 0b00000000000000000000000000100000 = .ok .bcEnc := by rfl
theorem test_decode_bc_dual_ks : decodeWord 0b00000000000000000000000000100001 = .ok .bcDualKs := by rfl
theorem test_decode_bc_tag1 : decodeWord 0b00000000000000000000000000100010 = .ok .bcTag1 := by rfl
theorem test_decode_bc_tag2 : decodeWord 0b00000000000000000000000000100011 = .ok .bcTag2 := by rfl
theorem test_decode_q_load1 : decodeWord 0b00000000000000000000000000110000 = .ok .qLoad1 := by rfl
theorem test_decode_q_load2 : decodeWord 0b00000000000000000000000000110001 = .ok .qLoad2 := by rfl
theorem test_decode_q_store1 : decodeWord 0b00000000000000000000000000110010 = .ok .qStore1 := by rfl
theorem test_decode_q_store2 : decodeWord 0b00000000000000000000000000110011 = .ok .qStore2 := by rfl
theorem test_decode_q_ortho : decodeWord 0b00000000000000000000000000110100 = .ok .qOrtho := by rfl
theorem test_decode_q_addrk : decodeWord 0b00000000000000000000000000110101 = .ok .qAddrk := by rfl
theorem test_decode_q_sub : decodeWord 0b00000000000000000000000000110110 = .ok .qSub := by rfl
theorem test_decode_q_sr : decodeWord 0b00000000000000000000000000110111 = .ok .qSr := by rfl
theorem test_decode_q_mc : decodeWord 0b00000000000000000000000000111000 = .ok .qMc := by rfl

/-- The host's table-word form: the same words, and a refusal. -/
theorem test_decode_table_word :
    decodeTableWord 32 0x101 = some (.keySetup true) ∧ decodeTableWord 32 0x38 = some .qMc ∧
    decodeTableWord 32 0x201 = none ∧ decodeTableWord 40 0x100000010 = none := by decide

/-! ### One step of each command -/

/-- R148's example: STATUS = 0x200 and DK of the key (DK[0], DK[16] of section 2.2). -/
theorem test_step_key_setup :
    runs 0x001 start (fun t => t.status == 0x200 &&
      t.dk[0].bytes == [0x11, 0x12, 0x14, 0x18, 0x3f, 0x3f, 0x3f, 0x3f, 0x10, 0x10, 0x10, 0x10, 0x10, 0x10, 0x10, 0x10] &&
      t.dk[16].bytes == [0x14, 0x42, 0xbb, 0xe2, 0x33, 0x66, 0x99, 0xcc, 0xbd, 0xe8, 0x17, 0x42, 0xe9, 0xbc, 0x43, 0x16])
      = true := by decide +kernel

/-- E5 (KEY_SIZE before RANGE) and E4 (RANGE by one byte): no key. -/
theorem test_step_key_setup_errors :
    runs 0x101 (start.setRegs { regs25 with keyPtr := 0xFE1, keyLen := 33 }) (fun t => t.status == 0x001) = true ∧
    runs 0x101 (start.setRegs { regs25 with keyPtr := 0xFE1, keyLen := 32 }) (fun t => t.status == 0x006) = true := by
  decide +kernel

/-- P1, line 16: the 33 bytes at 0x400; the input is unchanged. -/
theorem test_step_aead_enc :
    runs 0x10 keyed (fun t => t.status == 0x200 && t.mem.readBytes 0x400 33 == sealed &&
      t.mem.readBytes 0x300 17 == count 0x20 17) = true := by decide +kernel

/-- E13 (RANGE by one byte), E15 (OVERLAP with the input) and E17 (OVERLAP with the nonce). -/
theorem test_step_aead_enc_errors :
    runs 0x10 (keyed.setRegs { regs25 with srcLen := 1, dstPtr := 0xFF0 }) (fun t => t.status == 0x206) = true ∧
    runs 0x10 (keyed.setRegs { regs25 with dstPtr := 0x301 }) (fun t => t.status == 0x207 && t.mem == mem25) = true ∧
    runs 0x10 (keyed.setRegs { regs25 with dstPtr := 0x130 }) (fun t => t.status == 0x207) = true := by decide +kernel

/-- P2, lines 4 to 6: in place, the plaintext, with the tag left where it was. -/
theorem test_step_aead_dec :
    runs 0x11 (inPlace 0x9e) (fun t => t.status == 0x200 && t.mem.readBytes 0x400 17 == count 0x20 17 &&
      t.mem.readBytes 0x411 16 == sealed.drop 17) = true := by decide +kernel

/-- P2, lines 11 to 15: the tampered tag gives AUTH and 17 zero bytes. -/
theorem test_step_aead_dec_tampered :
    runs 0x11 (inPlace 0x9f) (fun t => t.status == 0x203 && t.mem.readBytes 0x400 17 == zeros 17 &&
      t.mem.read 0x420 == 0x9f && t.mem.read 0x411 == 0x8e) = true := by decide +kernel

/-- R175's example with DST_PTR = SRC_PTR (zero tweak, zero block). -/
theorem test_step_bc_enc :
    runs 0x20 (withPtrs keyed 0x600 0x600 0x700) (fun t => t.status == 0x200 && t.mem.readBytes 0x600 16 ==
      [0x58, 0x92, 0x66, 0xc2, 0xac, 0x17, 0xb7, 0x95, 0xdc, 0xb7, 0x07, 0x4b, 0x79, 0x2a, 0x13, 0xd4]) = true := by
  decide +kernel

/-- E2 (NO_KEY) and E24 (RANGE). -/
theorem test_step_bc_enc_errors :
    runs 0x20 start (fun t => t.status == 0x004) = true ∧
    runs 0x20 (withPtrs keyed 0xFF0 0xFE1 0xFF1) (fun t => t.status == 0x206 && t.mem == mem25) = true := by
  decide +kernel

/-- R176's example. -/
theorem test_step_bc_dual_ks :
    runs 0x21 (withBytes (withBytes (withPtrs keyed 0x600 0x700 0x500) 0x500
        (0x80 :: zeros 15 ++ 0x80 :: zeros 14 ++ [0x01])) 0x601 (count 0 15))
      (fun t => t.status == 0x200 && t.mem.readBytes 0x700 32 ==
        [0x90, 0x02, 0x52, 0x6d, 0x44, 0x05, 0x7e, 0x2e, 0xee, 0xcb, 0x23, 0x71, 0x1e, 0x50, 0xfe, 0xc0,
         0xc6, 0x50, 0x14, 0x97, 0xea, 0x16, 0x75, 0x82, 0xd0, 0xfc, 0x57, 0xe8, 0x46, 0x64, 0x56, 0xae]) = true := by
  decide +kernel

/-- R177's example. -/
theorem test_step_bc_tag1 :
    runs 0x22 (withBytes (withBytes (withBytes (withPtrs keyed 0x600 0x700 0x500) 0x500 [0x20]) 0x600 (count 0x40 16))
        0x700 (count 0xf0 16))
      (fun t => t.status == 0x200 && t.mem.readBytes 0x700 16 ==
        [0xe4, 0xa6, 0x8e, 0x63, 0x0a, 0xaa, 0x82, 0xf2, 0xb0, 0x22, 0xd3, 0xe8, 0x6b, 0xce, 0x9a, 0xd3]) = true := by
  decide +kernel

/-- The corner of section 2.3: DST_PTR = SRC_PTR. -/
theorem test_step_bc_tag1_on_itself :
    runs 0x22 (withBytes (withBytes (withPtrs keyed 0x600 0x600 0x500) 0x500 [0x20]) 0x600 (count 0x40 16))
      (fun t => t.mem.readBytes 0x600 16 ==
        [0x54, 0x16, 0x3e, 0xd3, 0xba, 0x1a, 0x32, 0x42, 0x00, 0x92, 0x63, 0x58, 0xdb, 0x7e, 0x2a, 0x63]) = true := by
  decide +kernel

/-- R178's example. -/
theorem test_step_bc_tag2 :
    runs 0x23 (withBytes (withBytes (withBytes (withPtrs keyed 0x600 0x700 0x500) 0x500
        (0x20 :: zeros 15 ++ 0x20 :: zeros 14 ++ [0x01])) 0x600 (count 0x40 32)) 0x700 (count 0xf0 16))
      (fun t => t.status == 0x200 && t.mem.readBytes 0x700 16 ==
        [0x52, 0x46, 0x46, 0x26, 0x44, 0xc9, 0x4d, 0xfa, 0x0d, 0x75, 0x51, 0x05, 0xc2, 0x71, 0x85, 0x79]) = true := by
  decide +kernel

/-- R115's example at the last block of M (E22), and one byte further (E21): Q unchanged. -/
theorem test_step_q_load1 :
    runs 0x30 (withBytes (withPtrs start 0xFF0 0 0) 0xFF0 (count 0 16)) (fun t => t.status == 0 && t.q ==
      ⟨0x55005500, 0x55550000, 0x44444444, 0x50505050, 0, 0, 0, 0⟩) = true ∧
    runs 0x30 (withPtrs start 0xFF1 0 0) (fun t => t.status == 6 && t.q == zeroWords) = true := by decide +kernel

/-- R116's example. -/
theorem test_step_q_load2 :
    runs 0x31 (withPtrs start 0x100 0 0) (fun t => t.status == 0 && t.q ==
      ⟨0xff00ff00, 0xffff0000, 0xcccccccc, 0xf0f0f0f0, 0xaaaaaaaa, 0, 0, 0⟩) = true := by decide +kernel

/-- R117's example; Q is unchanged and only 16 bytes are written. -/
theorem test_step_q_store1 :
    runs 0x32 (withPtrs (start.setQ ⟨0xff00ff00, 0xffff0000, 0xcccccccc, 0xf0f0f0f0, 0xaaaaaaaa, 0, 0, 0⟩) 0 0x700 0)
      (fun t => t.mem.readBytes 0x700 17 == count 0 16 ++ [0] && t.q.q0 == 0xff00ff00) = true := by decide +kernel

/-- R118's example. -/
theorem test_step_q_store2 :
    runs 0x33 (withPtrs (start.setQ ⟨0xff00ff00, 0xffff0000, 0xcccccccc, 0xf0f0f0f0, 0xaaaaaaaa, 0, 0, 0⟩) 0 0x700 0)
      (fun t => t.mem.readBytes 0x700 32 == count 0 32) = true := by decide +kernel

/-- R119's example. -/
theorem test_step_q_ortho :
    runs 0x34 (start.setQ ⟨0x03020100, 0x07060504, 0x0b0a0908, 0x0f0e0d0c, 0x13121110, 0x17161514, 0x1b1a1918, 0x1f1e1d1c⟩)
      (fun t => t.q == ⟨0xff00ff00, 0xffff0000, 0xaaaaaaaa, 0xcccccccc, 0xf0f0f0f0, 0, 0, 0⟩) = true := by decide +kernel

/-- R120's example. -/
theorem test_step_q_addrk :
    runs 0x35 (withBytes (start.setQ (pack2 (countBlock 0) (countBlock 0x10))) 0x500
        ((List.range 32).map fun i => BitVec.ofNat 8 (i / 4 + 1)))
      (fun t => t.status == 0 && (unpackA t.q).bytes ==
          [0x55, 0x54, 0x57, 0x56, 0x7c, 0x7d, 0x7e, 0x7f, 0x08, 0x09, 0x0a, 0x0b, 0x0c, 0x0d, 0x0e, 0x0f] &&
        (unpackB t.q).bytes ==
          [0x76, 0x77, 0x74, 0x75, 0x94, 0x95, 0x96, 0x97, 0x18, 0x19, 0x1a, 0x1b, 0x1c, 0x1d, 0x1e, 0x1f]) = true := by
  decide +kernel

/-- R121's corner: all-zero Q, right after reset, with no key. -/
theorem test_step_q_sub :
    runs 0x36 State.reset (fun t => t.status == 0 &&
      t.q == ⟨0xffffffff, 0xffffffff, 0, 0, 0, 0xffffffff, 0xffffffff, 0⟩) = true := by decide +kernel

/-- R121's example. -/
theorem test_step_q_sub_lanes :
    runs 0x36 (start.setQ (pack2 (countBlock 0) (countBlock 0x10))) (fun t => (unpackA t.q).bytes ==
        [0x63, 0x7c, 0x77, 0x7b, 0xf2, 0x6b, 0x6f, 0xc5, 0x30, 0x01, 0x67, 0x2b, 0xfe, 0xd7, 0xab, 0x76] &&
      (unpackB t.q).bytes ==
        [0xca, 0x82, 0xc9, 0x7d, 0xfa, 0x59, 0x47, 0xf0, 0xad, 0xd4, 0xa2, 0xaf, 0x9c, 0xa4, 0x72, 0xc0]) = true := by
  decide +kernel

/-- R122's example. -/
theorem test_step_q_sr :
    runs 0x37 (start.setQ (pack1 (countBlock 0))) (fun t => (unpackA t.q).bytes ==
      [0x00, 0x05, 0x0a, 0x0f, 0x04, 0x09, 0x0e, 0x03, 0x08, 0x0d, 0x02, 0x07, 0x0c, 0x01, 0x06, 0x0b]) = true := by
  decide +kernel

/-- R123's examples: the column db 13 53 45 in lane A, the counting block in lane B. -/
theorem test_step_q_mc :
    runs 0x38 (start.setQ (pack2 (blockAt [0xdb, 0x13, 0x53, 0x45] 0) (countBlock 0))) (fun t =>
      (unpackA t.q).bytes.take 4 == [0x8e, 0x4d, 0xa1, 0xbc] && (unpackB t.q).bytes ==
      [0x02, 0x07, 0x00, 0x05, 0x06, 0x03, 0x04, 0x01, 0x0a, 0x0f, 0x08, 0x0d, 0x0e, 0x0b, 0x0c, 0x09]) = true := by
  decide +kernel

/-- Section 2.5: an illegal word gives ILLEGAL from reset and leaves Q. -/
theorem test_step_illegal : runs 0x236 State.reset (fun t => t.status == 5 && t.q == zeroWords) = true := by decide +kernel

/-- KAT-0 of section 1: the tag of the empty message. -/
theorem test_known_answer :
    sealMessage (deriveK (count 0x10 32)) (count 0x20 15) [] [] =
      [0x2b, 0x97, 0xbd, 0x77, 0x71, 0x2f, 0x0c, 0xde, 0x97, 0x53, 0x09, 0x95, 0x9d, 0xfe, 0x1d, 0x7c] := by decide +kernel

/-! ### The host port, reset and memory -/

/-- R21 and R23: a read of STATUS; a write of CMD issues; the reserved offsets read 0 (R25). -/
theorem test_host_registers :
    nextHolds (hostStep (.regRead 0x04 4) keyed) (fun t => t.seen == [.reg 0x04 0x200]) = true ∧
    nextHolds (hostStep (.regWrite 0x00 4 0x10) keyed) (fun t => t.pending == 0x10 && t.status == 0x300) = true ∧
    nextHolds (hostStep (.regRead 0x3C 4) keyed) (fun t => t.seen == [.reg 0x3C 0]) = true ∧
    nextHolds (hostStep (.regRead 0x40 4) keyed) (fun t => t.fault == some .badRegisterAccess) = true := by decide +kernel

/-- R273: after completion a write of SRC_PTR, or a read of M, before STATUS is read is marked; a read of STATUS with
BUSY = 0 settles it, one with BUSY = 1 does not. -/
theorem test_host_reads_status_first :
    (let s := (keyed.issue 0x36).finish .ok
     nextHolds (hostStep (.regWrite 0x20 4 0x600) s) (fun t => t.fault == some .accessBeforeStatusRead && t.regs == s.regs) &&
     nextHolds (hostStep (.memRead 0x300 1) s) (fun t => t.fault == some .accessBeforeStatusRead && t.seen == []) &&
     nextHolds (hostStep (.regRead 0x04 4) s) (fun t => !t.awaiting && t.fault == none) &&
     nextHolds (hostStep (.regRead 0x20 4) s) (fun t => t.awaiting) &&
     nextHolds (hostStep (.regRead 0x04 4) (keyed.issue 0x36)) (fun t => t.awaiting)) = true := by decide +kernel

/-- R80: `RUN Q_SUB` from reset as turns of the machine: the CMD write, the core's step, the STATUS read. -/
theorem test_script_run :
    (scriptRun .qSub).length = 3 ∧
    nextHolds (step (State.launch ⟨0xFFF⟩ [] (scriptRun .qSub))) (fun t => t.busy && t.pending == 0x36 &&
      t.agenda == scriptWait) = true := by decide +kernel

/-- R271: a reset while BUSY = 1 discards the command and leaves M. -/
theorem test_reset_discards :
    nextHolds (step ((keyed.issue 0x10).setAgenda [.reset])) (fun t => t.status == 0 && t.pending == 0 && t.mem == mem25)
      = true := by decide +kernel

/-- R51 and the canonical form: a zero byte is not listed. -/
theorem test_memory_canonical :
    Memory.writeBytes [] 5 [1, 0, 3] = [(5, 1), (7, 3)] ∧ Memory.write [(5, 1), (7, 3)] 5 0 = [(7, 3)] ∧
    Memory.readBytes [(5, 1), (7, 3)] 5 3 = [1, 0, 3] ∧ mem25.wf 0x1000 := by decide +kernel

/-! ### Witnesses: for every statement with hypotheses, a state and operands that meet them all, at the boundary of each
clause. (In an `∃ t` the premise "the command answers next t" is met by the t shown.) -/

/-- The keyed machine with a command word issued. -/
def issued (w : Word) : State := keyed.issue w

theorem test_witness_DecodeEncodeAgree :
    Instr.wf (.keySetup true) = true ∧ decodeWord 0x101 = .ok (.keySetup true) ∧ encode (.keySetup true) = 0x101 :=
  ⟨rfl, rfl, rfl⟩

/-- The three clauses: an unassigned code beside an assigned one, the lowest and the highest reserved bit, V on AEAD_ENC. -/
theorem test_witness_IllegalWordFinishesIllegal :
    (issued 0x39).fault = none ∧ CoreNext (issued 0x39) ∧ (issued 0x39).busy = true ∧
    (issued 0x39).pending.extractLsb' 0 8 ∉ ([0x01, 0x10, 0x11, 0x20, 0x21, 0x22, 0x23, 0x30, 0x31, 0x32, 0x33, 0x34, 0x35,
      0x36, 0x37, 0x38] : List Byte) ∧
    (issued 0x201).pending.extractLsb' 9 23 ≠ 0 ∧ (issued 0x80000010).pending.extractLsb' 9 23 ≠ 0 ∧
    (issued 0x110).pending.getLsbD 8 = true ∧ (issued 0x110).pending.extractLsb' 0 8 ≠ (0x01 : Byte) :=
  ⟨rfl, .inl rfl, rfl, by decide⟩

theorem test_witness_StepRunsDecodedCommand :
    Instr.wf .qMc = true ∧ (issued 0x38).fault = none ∧ CoreNext ((issued 0x38).setAgenda [.core]) ∧ CoreNext (issued 0x38) ∧
    (issued 0x38).busy = true ∧ decodeWord (issued 0x38).pending = .ok .qMc :=
  ⟨rfl, rfl, .inr ⟨[], rfl⟩, .inl rfl, rfl, rfl⟩

theorem test_witness_PlacedWordRunsNext : Instr.wf .qSub = true ∧
    nextHolds (step (State.reset.withFetchWord 32 (encode .qSub).toNat)) (fun t => t.q.q0 == 0xffffffff) = true := by
  decide +kernel

theorem test_witness_IdleCoreChangesNothing : start.fault = none ∧ CoreNext start ∧ start.busy = false :=
  ⟨rfl, .inl rfl, rfl⟩

theorem test_witness_ResetAppliesAtOnce : (start.setAgenda [.reset, .core]).agenda = .reset :: [.core] := rfl

/-- The premise of the invariant's statement holds of a keyed machine that has a command to run. -/
theorem test_witness_StepKeepsInvariant :
    (issued 0x23).Inv ∧ ∃ t, step (issued 0x23) = .next t ∧ t.busy = false := by
  refine ⟨⟨?_, fun _ => rfl, fun _ => rfl, fun _ => ⟨count 0 32, by decide, rfl⟩, fun _ => rfl⟩, exists_next (by decide +kernel)⟩
  exact (by decide +kernel : (issued 0x23).mem.wf (issued 0x23).cfg.memSize)

theorem test_witness_LaunchMeetsInvariant : Memory.wf 0x1000 mem25 := by decide +kernel

/-- A KEY_SETUP that changes all three, and a command on a keyed machine. -/
theorem test_witness_KeyStateWrittenOnlyByKeySetup :
    (∃ t, exec (.keySetup true) start = .next t ∧ t.keyValid ≠ start.keyValid ∧ t.variant ≠ start.variant) ∧
    (∃ t, exec .bcEnc keyed = .next t ∧ keyed.keyValid = true) :=
  ⟨exists_next (by decide +kernel), exists_next (by decide +kernel)⟩

/-- The addresses just below and just above a store, and one that a non-storing command leaves. -/
theorem test_witness_StoresStayInOutputRegion :
    (∃ t, exec .qStore1 (withPtrs start 0 0x140 0) = .next t ∧ t.err = .ok) ∧
    (withPtrs start 0 0x140 0).outputRegion .qStore1 = some ⟨0x140, 16⟩ ∧ start.outputRegion .qLoad1 = none ∧
    ((0x13F : Nat) < 0x140 ∧ (0x140 + 16 : Nat) ≤ 0x150) :=
  ⟨exists_next (by decide +kernel), by decide, by decide, by decide⟩

/-- E10 to E12 and E19, E20, E23 of section 2.5, and an illegal word. -/
theorem test_witness_ErrorPriority :
    (issued 0x39).busy = true ∧ (∃ e, decodeWord (issued 0x39).pending = .error e) ∧
    (∃ t, exec .aeadDec (keyed.setRegs { regs25 with nonceLen := 16, srcLen := 15 }) = .next t ∧ t.err = .nonceSize) ∧
    (∃ t, exec .aeadDec (keyed.setRegs { regs25 with srcLen := 15 }) = .next t ∧ t.err = .auth) ∧
    (∃ t, exec .aeadEnc (keyed.setRegs { regs25 with adLen := 0, dstPtr := 0x200 }) = .next t ∧ t.err = .ok) ∧
    (∃ t, exec .aeadEnc (keyed.setRegs { regs25 with adPtr := 0xFFFFFFFF, adLen := 0, srcLen := 0 }) = .next t ∧
      t.err = .ok) ∧
    (∃ t, exec .qLoad2 (withPtrs start 0xFE1 0 0) = .next t ∧ t.err = .range) ∧
    (∃ t, exec .qStore2 (withPtrs start 0 0xFE0 0) = .next t ∧ t.err = .ok) :=
  ⟨rfl, ⟨_, rfl⟩, exists_next (by decide +kernel), exists_next (by decide +kernel), exists_next (by decide +kernel),
    exists_next (by decide +kernel), exists_next (by decide +kernel), exists_next (by decide +kernel)⟩

/-- A failed engine command, a short AEAD_DEC, and one that fails on the tag (SRC_LEN = 16, the least that is compared). -/
theorem test_witness_FailedCommandEffects :
    (∃ t, exec .qAddrk (withPtrs start 0 0 0xFE1) = .next t ∧ t.err ≠ .ok ∧ isEngine .qAddrk = true) ∧
    (∃ t, exec .aeadDec (keyed.setRegs { regs25 with srcLen := 15 }) = .next t ∧ t.err ≠ .ok) ∧
    (∃ t, exec .aeadDec (keyed.setRegs { regs25 with srcLen := 16, adLen := 0 }) = .next t ∧ t.err = .auth ∧
      16 ≤ (0x10 : Word).toNat) :=
  ⟨exists_next (by decide +kernel), exists_next (by decide +kernel), exists_next (by decide +kernel)⟩

theorem test_witness_KeyedCommandsForgetQ : isEngine .bcEnc = false ∧ isEngine (.keySetup false) = false := by decide

theorem test_witness_VariantChangesNoResult : ∃ t, exec .aeadEnc keyed = .next t ∧ t.err = .ok :=
  exists_next (by decide +kernel)

theorem test_witness_DkUnobservableWithoutKey : (start.issue 0x20).keyValid = false ∧
    (∃ t, step (start.issue 0x20) = .next t ∧ t.err = .noKey) ∧
    step ((start.mark .badRegisterAccess).issue 0x20) = .fault (.hostProtocol .badRegisterAccess) :=
  ⟨rfl, exists_next (by decide +kernel), rfl⟩

/-- The index ranges of the schedule and the round functions at their last values, on the spec's own numbers (sections 2.1
and 2.2): H, DK[16], STK[16] of the tweak 10 || N, SR and the layout of PACK2. -/
theorem test_witness_index_ranges :
    (permuteH (countBlock 0)).bytes.getD 15 0 = 0x08 ∧ (15 < 16) ∧
    ((deriveK (count 0 32))[16]).bytes.getD 15 0 = 0x16 ∧ (16 < 17 ∧ 8 ≤ 8) ∧
    ((deriveSTK (deriveK (count 0 32)) (nonceBlock 0x10 (count 0 15))).getD 16 zeroBlock).bytes =
      [0x04, 0x42, 0xba, 0xe0, 0x30, 0x62, 0x9c, 0xca, 0xba, 0xe0, 0x1e, 0x48, 0xe2, 0xb0, 0x4e, 0x18] ∧
    (shiftRows (countBlock 0)).bytes.getD (3 + 4 * 3) 0 = 0x0b ∧ (3 < 4) ∧
    (lfsr2Byte 0x20).getLsbD 0 = true ∧ (lfsr3Byte 0x40).getLsbD 7 = true ∧ (7 < 8) := by decide +kernel

/-- Two Q_ORTHO in a row. -/
theorem test_witness_QInPlaceResults :
    ∃ t u, exec .qOrtho start = .next t ∧ exec .qOrtho t = .next u := ⟨_, _, rfl, rfl⟩

/-- P3's machine: both lanes loaded and the key words at AUX_PTR. -/
theorem test_witness_EngineRoundComposition :
    let k := pack2 (countBlock 0xa0) (countBlock 0xb0)
    let s := withBytes (start.setQ (pack2 (countBlock 0) (countBlock 0x10))) 0x500 (keyWordBytes k)
    s.q = pack2 (countBlock 0) (countBlock 0x10) ∧ s.regs.auxPtr.toNat + 32 ≤ s.cfg.memSize ∧
      s.mem.readBytes s.regs.auxPtr.toNat 32 = keyWordBytes (pack2 (countBlock 0xa0) (countBlock 0xb0)) := by
  decide +kernel

/-- The two BC_TAG1 commands of the statement, on a running tag that ends where the tweaks begin. -/
theorem test_witness_BcTag2IsTwoBcTag1 :
    let s := withPtrs keyed 0x600 0x4F0 0x500
    (s.mem.wf s.cfg.memSize ∧ s.keyValid = true ∧ s.regs.auxPtr.toNat + 32 ≤ s.cfg.memSize ∧
      s.regs.srcPtr.toNat + 32 ≤ s.cfg.memSize ∧ s.regs.dstPtr.toNat + 16 ≤ s.cfg.memSize ∧
      ¬ Meets s.regs.dstPtr 16 s.regs.auxPtr 32 ∧ ¬ Meets s.regs.dstPtr 16 s.regs.srcPtr 32) ∧
    ∃ t u, exec .bcTag1 s = .next t ∧
      exec .bcTag1 { t with regs := { t.regs with auxPtr := t.regs.auxPtr + 16, srcPtr := t.regs.srcPtr + 16 } } =
        .next u :=
  ⟨by decide +kernel, _, _, rfl, rfl⟩

/-- The whole of P1, and a message of no bytes in place. -/
theorem test_witness_DecryptionRecoversPlaintext :
    (∃ t, exec .aeadEnc keyed = .next t ∧ t.err = .ok ∧ keyed.regs.srcLen.toNat + 16 < 2 ^ 32) ∧
    (∃ t, exec .aeadEnc (keyed.setRegs { regs25 with srcLen := 0, dstPtr := 0x300 }) = .next t ∧ t.err = .ok) :=
  ⟨exists_next (by decide +kernel), exists_next (by decide +kernel)⟩

/-- Apart, and in place. -/
theorem test_witness_SequencedEncryptionAgrees :
    keyed.keyValid = true ∧ keyed.regs.nonceLen = 15 ∧ AeadFits keyed (keyed.regs.srcLen.toNat + 16) ∧
    ¬ AeadMeets keyed (keyed.regs.srcLen.toNat + 16) ∧
    (let s := keyed.setRegs { regs25 with dstPtr := 0x300 }
     s.keyValid = true ∧ s.regs.nonceLen = 15 ∧ AeadFits s (s.regs.srcLen.toNat + 16) ∧
       ¬ AeadMeets s (s.regs.srcLen.toNat + 16)) := by decide +kernel

/-- In place, and at the least input length. -/
theorem test_witness_SequencedDecryptionAgrees :
    (let s := inPlace 0x9e
     s.mem.wf s.cfg.memSize ∧ s.keyValid = true ∧ s.regs.nonceLen = 15 ∧ 16 ≤ s.regs.srcLen.toNat ∧
        AeadFits s (s.regs.srcLen.toNat - 16) ∧ ¬ AeadMeets s (s.regs.srcLen.toNat - 16)) ∧
    (let s := keyed.setRegs { regs25 with srcLen := 16 }
     s.mem.wf s.cfg.memSize ∧ s.keyValid = true ∧ s.regs.nonceLen = 15 ∧ 16 ≤ s.regs.srcLen.toNat ∧
        AeadFits s (s.regs.srcLen.toNat - 16) ∧ ¬ AeadMeets s (s.regs.srcLen.toNat - 16)) := by decide +kernel

/-- R278's count for P1 (an AD of 1 byte, a message of 17), for AEAD_DEC of the least length, for a command that fails a
check, and Q_MC and KEY_SETUP from another DK. -/
theorem test_witness_EvaluationsFixedByLengths :
    cipherEvaluations keyed .aeadEnc = 6 ∧
    cipherEvaluations (keyed.setRegs { regs25 with srcLen := 16 }) .aeadDec = 2 ∧ cipherEvaluations start .bcTag2 = 0 ∧
    isEngine .qMc = true ∧ (∃ t, exec .qMc keyed = .next t) ∧ (∃ t, exec (.keySetup true) keyed = .next t ∧ t.err = .ok) :=
  ⟨by decide +kernel, by decide +kernel, by decide +kernel, rfl, ⟨_, rfl⟩, exists_next (by decide +kernel)⟩

/-- The ranges of the byte strings in AeadEncResult at both ends, on the spec's values (section 2.4). -/
theorem test_witness_AeadEncResult :
    (authTweak 0x2 (2 ^ 32 - 1)).bytes.drop 12 = [0xff, 0xff, 0xff, 0xff] ∧ ((2 ^ 32 - 1 : Nat) < 2 ^ 32) ∧
    (padBlock [0x30]).bytes = 0x30 :: 0x80 :: zeros 14 ∧ (padBlock (count 0 15)).bytes = count 0 15 ++ [0x80] ∧
    (nonceBlock 0x10 (count 0 15)).bytes = 0x10 :: count 0 15 ∧ (count 0 15).length = 15 := by decide +kernel

/-- BUSY = 0, BUSY = 1 and a command finished with STATUS not read, with no mark; and an access of each kind at the edge of
what is admitted. -/
theorem test_witness_host_port :
    start.busy = false ∧ start.awaiting = false ∧ ((issued 0x10).finish .ok).busy = false ∧
    ((issued 0x10).finish .ok).awaiting = true ∧ ((issued 0x10).finish .ok).fault = none ∧ (issued 0x10).busy = true ∧ (issued 0x10).fault = none ∧ start.fault = none ∧
    Reg.auxPtr ≠ .cmd ∧ Reg.auxPtr ≠ .status ∧ Reg.auxPtr ≠ .reserved ∧ Reg.keyPtr ≠ .auxPtr ∧
    ¬ (4 = 4 ∧ 0x40 % 4 = 0 ∧ 0x40 < 0x40) ∧ ¬ (2 = 4 ∧ 0x08 % 4 = 0 ∧ 0x08 < 0x40) ∧
    ¬ (4 = 4 ∧ 0x3E % 4 = 0 ∧ 0x3E < 0x40) ∧ (4 = 4 ∧ 0x3C % 4 = 0 ∧ 0x3C < 0x40) := by decide

theorem test_witness_FaultMarkIsSticky :
    (start.mark .accessWhileBusy).fault = some .accessWhileBusy ∧
    (∀ rest, (start.mark .accessWhileBusy).agenda ≠ .reset :: rest) ∧
    (∃ t, hostStep (.regRead 0x04 4) (start.mark .accessWhileBusy) = .next t) ∧
    (∃ t, exec .qSub (start.mark .accessWhileBusy) = .next t) :=
  ⟨rfl, fun _ h => absurd h (List.nil_eq.not.mpr (List.cons_ne_nil _ _)), ⟨_, rfl⟩, ⟨_, rfl⟩⟩

/-- The last byte of M, and the first address that does not exist. -/
theorem test_witness_HostMemoryTransfer :
    start.busy = false ∧ start.awaiting = false ∧ 0xFFF + [(7 : Byte)].length ≤ start.cfg.memSize ∧
    ([7] : List Byte) ≠ [] ∧ start.cfg.memSize < 0x1000 + [(7 : Byte)].length := by decide

end Sys2Proof.Tests
end

section
/-! SUPPORT. The meaning of every command in one form.

Each command first makes its checks, and when none applies it has one of three effects: a new key, bytes at DST_PTR, or
new engine words. `exec_eq` says so of all sixteen; what follows about commands goes through it. -/

namespace Sys2Proof.Machine

open Sys2Proof.Statements

/-- What a command whose checks pass does, apart from its end. -/
inductive Effect where
  /-- DK, KEY_VALID and VARIANT replaced (41_tweakey.md R148). -/
  | key (dk : Vector Block 17) (v : Variant)
  /-- Bytes written at DST_PTR, and the code the command finishes with. -/
  | bytes (out : List Byte) (code : ErrCode)
  /-- New engine words. -/
  | words (w : EngineWords)

/-- The code that a command with this effect finishes with. -/
def Effect.code : Effect → ErrCode
  | .key _ _ => .ok
  | .bytes _ c => c
  | .words _ => .ok

/-- The state with an effect made and the command not yet ended. -/
def State.applyEffect (s : State) : Effect → State
  | .key dk v => s.setKey dk v
  | .bytes out _ => s.store s.regs.dstPtr out
  | .words w => s.setQ w

/-- The end of a command: `finish` for a Q_* command, and with fresh draws in Q for any other (10_state.md R31). -/
def State.endCommand (s : State) (i : Instr) (c : ErrCode) : State :=
  if isEngine i then s.finish c else s.finishKeyed c

/-- The one check of a Q_* command: its region of M (R242). -/
def State.regionError (s : State) (r : Region) : Option ErrCode := firstError [(s.outOfRange [r], .range)]

/-- The error that a command's checks report (R242). -/
def State.commandError (s : State) : Instr → Option ErrCode
  | .keySetup _ => s.keyError
  | .aeadEnc => s.encError
  | .aeadDec => s.decError
  | .bcEnc => s.cipherError 16 16 16
  | .bcDualKs => s.cipherError 32 16 32
  | .bcTag1 => s.cipherError 16 16 16
  | .bcTag2 => s.cipherError 32 32 16
  | .qLoad1 => s.regionError (s.srcRegion 16)
  | .qLoad2 => s.regionError (s.srcRegion 32)
  | .qStore1 => s.regionError (s.dstRegion 16)
  | .qStore2 => s.regionError (s.dstRegion 32)
  | .qAddrk => s.regionError (s.auxRegion 32)
  | .qOrtho | .qSub | .qSr | .qMc => none

/-- The plaintext or zeros of AEAD_DEC, with the code of its tag comparison (43_aead.md R215). -/
def State.decEffect (s : State) : Effect :=
  let r := openMessage s.dk (s.readRegion s.nonceRegion) (s.readRegion s.inputRegion) (s.readRegion s.adRegion)
  .bytes r.2 (if r.1 then .ok else .auth)

/-- The effect of a command whose checks pass. -/
def State.commandEffect (s : State) : Instr → Effect
  | .keySetup v => .key (deriveK (s.readRegion s.keyRegion)) (Variant.ofBit v)
  | .aeadEnc =>
    .bytes (sealMessage s.dk (s.readRegion s.nonceRegion) (s.readRegion s.inputRegion) (s.readRegion s.adRegion)) .ok
  | .aeadDec => s.decEffect
  | .bcEnc => .bytes (encryptBlock s.dk (s.blockAtPtr s.regs.auxPtr 0) (s.blockAtPtr s.regs.srcPtr 0)).bytes .ok
  | .bcDualKs =>
    .bytes ((encryptBlock s.dk (s.blockAtPtr s.regs.auxPtr 0) (s.blockAtPtr s.regs.srcPtr 0)).bytes
      ++ (encryptBlock s.dk (s.blockAtPtr s.regs.auxPtr 16) (s.blockAtPtr s.regs.srcPtr 0)).bytes) .ok
  | .bcTag1 =>
    .bytes (tagAcc1 s.dk (s.blockAtPtr s.regs.dstPtr 0) (s.blockAtPtr s.regs.auxPtr 0)
      (s.blockAtPtr s.regs.srcPtr 0)).bytes .ok
  | .bcTag2 =>
    .bytes (tagAcc2 s.dk (s.blockAtPtr s.regs.dstPtr 0) (s.blockAtPtr s.regs.auxPtr 0)
      (s.blockAtPtr s.regs.auxPtr 16) (s.blockAtPtr s.regs.srcPtr 0) (s.blockAtPtr s.regs.srcPtr 16)).bytes .ok
  | .qLoad1 => .words (pack1 (s.blockAtPtr s.regs.srcPtr 0))
  | .qLoad2 => .words (pack2 (s.blockAtPtr s.regs.srcPtr 0) (s.blockAtPtr s.regs.srcPtr 16))
  | .qStore1 => .bytes (unpackA s.q).bytes .ok
  | .qStore2 => .bytes ((unpackA s.q).bytes ++ (unpackB s.q).bytes) .ok
  | .qOrtho => .words (ortho s.q)
  | .qAddrk => .words (s.q.xor (keyWords (s.readRegion (s.auxRegion 32))))
  | .qSub => .words (engineSub s.q)
  | .qSr => .words (engineShiftRows s.q)
  | .qMc => .words (engineMixColumns s.q)

/-- The state in which a command ends: an error ends it at once, else its effect is made first. -/
def State.afterCommand (s : State) (i : Instr) : State :=
  match s.commandError i with
  | some e => s.endCommand i e
  | none => (s.applyEffect (s.commandEffect i)).endCommand i (s.commandEffect i).code

theorem State.afterCommand_of_error {s : State} {i : Instr} {e : ErrCode} (h : s.commandError i = some e) :
    s.afterCommand i = s.endCommand i e := by
  simp only [State.afterCommand, h]

theorem State.afterCommand_of_none {s : State} {i : Instr} (h : s.commandError i = none) :
    s.afterCommand i = (s.applyEffect (s.commandEffect i)).endCommand i (s.commandEffect i).code := by
  simp only [State.afterCommand, h]

/-- The meaning of every command: it answers the state of `State.afterCommand`. -/
theorem exec_eq (i : Instr) (s : State) : exec i s = .next (s.afterCommand i) := by
  cases i with
  | keySetup v => simp only [exec, execKeySetup, State.afterCommand, State.commandError]; cases s.keyError <;> rfl
  | aeadEnc => simp only [exec, execAeadEnc, State.afterCommand, State.commandError]; cases s.encError <;> rfl
  | aeadDec => simp only [exec, execAeadDec, State.afterCommand, State.commandError]; cases s.decError <;> rfl
  | bcEnc => simp only [exec, execBcEnc, State.afterCommand, State.commandError]; cases s.cipherError 16 16 16 <;> rfl
  | bcDualKs =>
    simp only [exec, execBcDualKs, State.afterCommand, State.commandError]; cases s.cipherError 32 16 32 <;> rfl
  | bcTag1 => simp only [exec, execBcTag1, State.afterCommand, State.commandError]; cases s.cipherError 16 16 16 <;> rfl
  | bcTag2 => simp only [exec, execBcTag2, State.afterCommand, State.commandError]; cases s.cipherError 32 32 16 <;> rfl
  | qLoad1 =>
    simp only [exec, execQLoad1, State.afterCommand, State.commandError, State.regionError]; cases firstError _ <;> rfl
  | qLoad2 =>
    simp only [exec, execQLoad2, State.afterCommand, State.commandError, State.regionError]; cases firstError _ <;> rfl
  | qStore1 =>
    simp only [exec, execQStore1, State.afterCommand, State.commandError, State.regionError]; cases firstError _ <;> rfl
  | qStore2 =>
    simp only [exec, execQStore2, State.afterCommand, State.commandError, State.regionError]; cases firstError _ <;> rfl
  | qAddrk =>
    simp only [exec, execQAddrk, State.afterCommand, State.commandError, State.regionError]; cases firstError _ <;> rfl
  | qOrtho => rfl
  | qSub => rfl
  | qSr => rfl
  | qMc => rfl

end Sys2Proof.Machine
end

section
/-! SUPPORT. What the end and the effect of a command leave unchanged, and that the bytes it writes lie in M. -/

namespace Sys2Proof.Machine

open Sys2Proof.Statements

section
variable (s : State) (i : Instr) (c : ErrCode)

theorem State.endCommand_of_engine {i : Instr} (hi : isEngine i = true) : s.endCommand i c = s.finish c := if_pos hi

theorem State.endCommand_of_keyed {i : Instr} (hi : isEngine i = false) : s.endCommand i c = s.finishKeyed c :=
  if_neg (by simp [hi])

/-- The two ends of a command. -/
theorem State.endCommand_cases : s.endCommand i c = s.finish c ∨ s.endCommand i c = s.finishKeyed c := by
  cases hi : isEngine i
  · exact .inr (s.endCommand_of_keyed c hi)
  · exact .inl (s.endCommand_of_engine c hi)

@[simp] theorem State.endCommand_cfg : (s.endCommand i c).cfg = s.cfg := by
  rcases s.endCommand_cases i c with h | h <;> simp [h]
@[simp] theorem State.endCommand_regs : (s.endCommand i c).regs = s.regs := by
  rcases s.endCommand_cases i c with h | h <;> simp [h]
@[simp] theorem State.endCommand_pending : (s.endCommand i c).pending = s.pending := by
  rcases s.endCommand_cases i c with h | h <;> simp [h]
@[simp] theorem State.endCommand_err : (s.endCommand i c).err = c := by
  rcases s.endCommand_cases i c with h | h <;> simp [h]
@[simp] theorem State.endCommand_busy : (s.endCommand i c).busy = false := by
  rcases s.endCommand_cases i c with h | h <;> simp [h]
@[simp] theorem State.endCommand_keyValid : (s.endCommand i c).keyValid = s.keyValid := by
  rcases s.endCommand_cases i c with h | h <;> simp [h]
@[simp] theorem State.endCommand_variant : (s.endCommand i c).variant = s.variant := by
  rcases s.endCommand_cases i c with h | h <;> simp [h]
@[simp] theorem State.endCommand_dk : (s.endCommand i c).dk = s.dk := by
  rcases s.endCommand_cases i c with h | h <;> simp [h]
@[simp] theorem State.endCommand_mem : (s.endCommand i c).mem = s.mem := by
  rcases s.endCommand_cases i c with h | h <;> simp [h]
@[simp] theorem State.endCommand_fault : (s.endCommand i c).fault = s.fault := by
  rcases s.endCommand_cases i c with h | h <;> simp [h]
@[simp] theorem State.endCommand_awaiting : (s.endCommand i c).awaiting = s.awaiting := by
  rcases s.endCommand_cases i c with h | h <;> simp [h]
@[simp] theorem State.endCommand_agenda : (s.endCommand i c).agenda = s.agenda := by
  rcases s.endCommand_cases i c with h | h <;> simp [h]
@[simp] theorem State.endCommand_seen : (s.endCommand i c).seen = s.seen := by
  rcases s.endCommand_cases i c with h | h <;> simp [h]

variable (e : Effect)

@[simp] theorem State.applyEffect_cfg : (s.applyEffect e).cfg = s.cfg := by cases e <;> rfl
@[simp] theorem State.applyEffect_regs : (s.applyEffect e).regs = s.regs := by cases e <;> rfl
@[simp] theorem State.applyEffect_pending : (s.applyEffect e).pending = s.pending := by cases e <;> rfl
@[simp] theorem State.applyEffect_err : (s.applyEffect e).err = s.err := by cases e <;> rfl
@[simp] theorem State.applyEffect_busy : (s.applyEffect e).busy = s.busy := by cases e <;> rfl
@[simp] theorem State.applyEffect_fault : (s.applyEffect e).fault = s.fault := by cases e <;> rfl
@[simp] theorem State.applyEffect_awaiting : (s.applyEffect e).awaiting = s.awaiting := by cases e <;> rfl
@[simp] theorem State.applyEffect_draws : (s.applyEffect e).draws = s.draws := by cases e <;> rfl
@[simp] theorem State.applyEffect_agenda : (s.applyEffect e).agenda = s.agenda := by cases e <;> rfl
@[simp] theorem State.applyEffect_seen : (s.applyEffect e).seen = s.seen := by cases e <;> rfl

end

/-- Everything a command can do: end at once with an error of its checks, or make its effect and then end. -/
theorem State.afterCommand_cases (s : State) (i : Instr) :
    (∃ e, s.commandError i = some e ∧ s.afterCommand i = s.endCommand i e) ∨
    (s.commandError i = none ∧
      s.afterCommand i = (s.applyEffect (s.commandEffect i)).endCommand i (s.commandEffect i).code) := by
  cases h : s.commandError i with
  | some e => exact .inl ⟨e, rfl, State.afterCommand_of_error h⟩
  | none => exact .inr ⟨rfl, State.afterCommand_of_none h⟩

/-- Only KEY_SETUP has a new key as its effect. -/
theorem State.commandEffect_key {s : State} {i : Instr} {dk : Vector Block 17} {v : Variant}
    (h : s.commandEffect i = .key dk v) : (∃ b, i = .keySetup b) ∧ dk = deriveK (s.readRegion s.keyRegion) := by
  cases i with
  | keySetup b =>
    obtain ⟨hdk, -⟩ := Effect.key.inj h
    exact ⟨⟨b, rfl⟩, hdk.symm⟩
  | _ => cases h

/-- The BC_* and AEAD_* commands compute only with a key. -/
theorem State.keyValid_of_commandError_none {s : State} {i : Instr} (hi : isEngine i = false)
    (hk : ∀ b, i ≠ .keySetup b) (h : s.commandError i = none) : s.keyValid = true := by
  cases i with
  | keySetup b => exact absurd rfl (hk b)
  | aeadEnc => exact (s.encError_eq_none.1 h).1
  | aeadDec => exact (s.decError_eq_none.1 h).1
  | bcEnc | bcDualKs | bcTag1 | bcTag2 => exact ((s.cipherError_eq_none _ _ _).1 h).1
  | _ => cases hi

end Sys2Proof.Machine

/-! ### The lengths of sealed and opened messages -/

namespace Sys2Proof

/-- The first n chunks of a keystream are the first 16n bytes of the text, or all of it. -/
theorem keystream_chunks_length (dk : Vector Block 17) (g : Block) (nonce x : List Byte) (n : Nat) :
    ((List.range n).flatMap fun j => xorBytes (chunk x j) (keystreamBlock dk g nonce j).bytes).length =
      min (16 * n) x.length := by
  induction n with
  | zero => simp
  | succ n ih =>
    have hchunk : (chunk x n).length = min 16 (x.length - 16 * n) := by simp [chunk]
    rw [List.range_succ, List.flatMap_append, List.length_append, ih]
    simp only [List.flatMap_singleton, xorBytes_length, hchunk, Block.bytes_length]
    omega

/-- The keystream leaves the length of the text (43_aead.md R208). -/
@[simp] theorem keystream_length (dk : Vector Block 17) (g : Block) (nonce x : List Byte) :
    (keystream dk g nonce x).length = x.length := by
  rw [keystream, keystream_chunks_length, chunkCount]
  omega

/-- A sealed message is 16 bytes longer than the plaintext (R209). -/
@[simp] theorem sealMessage_length (dk : Vector Block 17) (nonce p ad : List Byte) :
    (sealMessage dk nonce p ad).length = p.length + 16 := by
  simp [sealMessage]

/-- Open gives 16 bytes less than it is given, whether or not the tag verifies (R210). -/
@[simp] theorem openMessage_length (dk : Vector Block 17) (nonce x ad : List Byte) :
    (openMessage dk nonce x ad).2.length = x.length - 16 := by
  cases h : openOk dk nonce x ad <;> simp [openMessage, openBody, h]

end Sys2Proof

/-! ### The bytes a command writes lie in M -/

namespace Sys2Proof.Machine

@[simp] theorem State.readRegion_length (s : State) (r : Region) : (s.readRegion r).length = r.len := by
  simp [State.readRegion]

@[simp] theorem State.regionError_eq_none (s : State) (r : Region) :
    s.regionError r = none ↔ r.inRange s.cfg = true := by
  rw [State.regionError, firstError_eq_none]
  simp [State.outOfRange]

/-- The bytes that a command writes fill a region at DST_PTR that its range check has passed. -/
theorem State.commandEffect_bytes_inRange {s : State} {i : Instr} {out : List Byte} {c : ErrCode}
    (hn : s.commandError i = none) (h : s.commandEffect i = .bytes out c) :
    (s.dstRegion out.length).inRange s.cfg = true := by
  cases i with
  | aeadEnc =>
    obtain ⟨-, -, hr, -⟩ := s.encError_eq_none.1 hn
    obtain ⟨rfl, -⟩ := Effect.bytes.inj h
    exact (s.outOfRange_eq_false _).1 hr _ (by simp [State.inputRegion])
  | aeadDec =>
    obtain ⟨-, -, -, hr, -⟩ := s.decError_eq_none.1 hn
    obtain ⟨rfl, -⟩ := Effect.bytes.inj h
    exact (s.outOfRange_eq_false _).1 hr _ (by simp [State.inputRegion])
  | bcEnc | bcDualKs | bcTag1 | bcTag2 =>
    obtain ⟨-, -, -, hr⟩ := (s.cipherError_eq_none _ _ _).1 hn
    obtain ⟨rfl, -⟩ := Effect.bytes.inj h
    exact hr
  | qStore1 | qStore2 =>
    obtain ⟨rfl, -⟩ := Effect.bytes.inj h
    exact (s.regionError_eq_none _).1 hn
  | _ => cases h

end Sys2Proof.Machine
end

section
/-! SUPPORT. One equation for each kind of turn and each access of the host, and the fields of STATUS. -/

namespace Sys2Proof.Machine

open Sys2Proof.Statements

/-! ### Turns -/

section
variable {s : State} {rest : List Turn}

theorem step_of_reset (ha : s.agenda = .reset :: rest) : step s = .next (s.setAgenda rest).applyReset := by
  cases hf : s.fault <;> simp only [step, machineStep, ha, hf, nextTurn, takeTurn]

theorem step_of_host {a : HostAct} (ha : s.agenda = .host a :: rest) (hf : s.fault = none) :
    step s = hostStep a (s.setAgenda rest) := by
  simp only [step, machineStep, ha, hf, nextTurn, takeTurn]

theorem step_of_core (ha : CoreNext s) (hf : s.fault = none) : step s = coreStep (s.setAgenda s.agenda.tail) := by
  rcases ha with ha | ⟨rest, ha⟩ <;> simp only [step, machineStep, ha, hf, nextTurn, takeTurn, List.tail]

theorem step_of_marked {v : Violation} (hf : s.fault = some v) (ha : ∀ rest, s.agenda ≠ .reset :: rest) :
    step s = .fault (.hostProtocol v) := by
  rcases hag : s.agenda with _ | ⟨_ | _ | _, rest⟩
  case cons.reset => exact absurd hag (ha rest)
  all_goals simp only [step, machineStep, hag, hf, nextTurn]

theorem coreStep_of_idle (hb : s.busy = false) : coreStep s = .next s := by simp [coreStep, hb]

theorem coreStep_of_decode {i : Instr} (hb : s.busy = true) (hd : decodeWord s.pending = .ok i) :
    coreStep s = exec i s := by
  simp [coreStep, hb, hd]

theorem coreStep_of_illegal {e : DecodeError} (hb : s.busy = true) (hd : decodeWord s.pending = .error e) :
    coreStep s = .next (s.finish .illegal) := by
  simp [coreStep, hb, hd]

end

/-- The decoder reads each command from its own word. -/
theorem decodeWord_encode (i : Instr) : decodeWord (encode i) = .ok i := by
  cases i with
  | keySetup v => cases v <;> rfl
  | _ => rfl

/-- `withFetchWord` places a 32-bit word as it is. -/
theorem State.withFetchWord_word (s : State) (w : Word) : s.withFetchWord 32 w.toNat = placeCommand s w := by
  rw [State.withFetchWord, Nat.mod_eq_of_lt w.isLt, BitVec.ofNat_toNat, BitVec.setWidth_eq]

/-! ### The host's accesses to registers -/

section
variable {s : State} {o w : Nat} {r : Reg}

theorem hostStep_regWrite_free (v : Word) (hr : regOfAccess o w = some r) (hb : s.busy = false)
    (ha : s.awaiting = false) : hostStep (.regWrite o w v) s = .next (s.writeReg v r) := by
  simp only [hostStep, hostRegWrite, hr, State.hostBarred_of_free hb ha]

theorem hostStep_regWrite_barred (v : Word) {k : Violation} (hr : regOfAccess o w = some r)
    (hk : s.hostBarred = some k) : hostStep (.regWrite o w v) s = .next (s.mark k) := by
  simp only [hostStep, hostRegWrite, hr, hk]

theorem hostStep_regWrite_malformed (v : Word) (hr : regOfAccess o w = none) :
    hostStep (.regWrite o w v) s = .next (s.mark .badRegisterAccess) := by
  simp only [hostStep, hostRegWrite, hr]

theorem hostStep_regRead (hr : regOfAccess o w = some r) :
    hostStep (.regRead o w) s = .next ((s.record (.reg o (s.readReg r))).afterRead r) := by
  simp only [hostStep, hostRegRead, hr]

theorem hostStep_regRead_malformed (hr : regOfAccess o w = none) :
    hostStep (.regRead o w) s = .next (s.mark .badRegisterAccess) := by
  simp only [hostStep, hostRegRead, hr]

/-- A read of any other register than STATUS only records its value. -/
theorem hostStep_regRead_of_ne (hr : regOfAccess o w = some r) (hne : r ≠ .status) :
    hostStep (.regRead o w) s = .next (s.record (.reg o (s.readReg r))) := by
  rw [hostStep_regRead hr, State.afterRead_of_ne _ hne]

end

/-! ### The host's accesses to M -/

section
variable {s : State} {a : Nat}

theorem hostStep_memWrite_barred (v : List Byte) {k : Violation} (hk : s.hostBarred = some k) :
    hostStep (.memWrite a v) s = .next (s.mark k) := by
  simp only [hostStep, hostMemWrite, hk]

theorem hostStep_memWrite_inside {v : List Byte} (hk : s.hostBarred = none) (hin : insideM s.cfg a v.length = true) :
    hostStep (.memWrite a v) s = .next (s.setMem (s.mem.writeBytes a v)) := by
  simp only [hostStep, hostMemWrite, hk, hin, if_true]

theorem hostStep_memWrite_outside {v : List Byte} (hk : s.hostBarred = none)
    (hout : insideM s.cfg a v.length = false) : hostStep (.memWrite a v) s = .fault .addressOutsideM := by
  simp only [hostStep, hostMemWrite, hk, hout, Bool.false_eq_true, if_false]

theorem hostStep_memRead_barred (n : Nat) {k : Violation} (hk : s.hostBarred = some k) :
    hostStep (.memRead a n) s = .next (s.mark k) := by
  simp only [hostStep, hostMemRead, hk]

theorem hostStep_memRead_inside {n : Nat} (hk : s.hostBarred = none) (hin : insideM s.cfg a n = true) :
    hostStep (.memRead a n) s = .next (s.record (.mem a (s.mem.readBytes a n))) := by
  simp only [hostStep, hostMemRead, hk, hin, if_true]

theorem hostStep_memRead_outside {n : Nat} (hk : s.hostBarred = none) (hout : insideM s.cfg a n = false) :
    hostStep (.memRead a n) s = .fault .addressOutsideM := by
  simp only [hostStep, hostMemRead, hk, hout, Bool.false_eq_true, if_false]

end

/-! ### Which register an access reaches -/

/-- An access reaches no register exactly when it is not an aligned word of the block (10_state.md R26). -/
theorem regOfAccess_eq_none_iff (o w : Nat) : regOfAccess o w = none ↔ ¬ (w = 4 ∧ o % 4 = 0 ∧ o < 0x40) := by
  by_cases hw : w = 4
  · simp only [regOfAccess, hw, if_true, true_and, regAtOffset]
    split <;> grind
  · simp [regOfAccess, hw]

/-- STATUS is at offset 0x04 only (R21). -/
theorem regAtOffset_eq_status_iff (o : Nat) : regAtOffset o = some .status ↔ o = 0x04 := by
  constructor
  · unfold regAtOffset
    split <;> simp
  · rintro rfl
    rfl

/-- An access that reaches a register reaches STATUS exactly at offset 0x04. -/
theorem eq_status_iff_of_regOfAccess {o w : Nat} {r : Reg} (hr : regOfAccess o w = some r) :
    r = .status ↔ o = 0x04 := by
  obtain ⟨-, hat⟩ : w = 4 ∧ regAtOffset o = some r := by simpa [regOfAccess] using hr
  rw [← regAtOffset_eq_status_iff, hat, Option.some.injEq]

@[simp] theorem regAtOffset_offset (r : Reg) : regAtOffset r.offset = some r := by cases r <;> rfl

@[simp] theorem regOfAccess_offset (r : Reg) : regOfAccess r.offset 4 = some r := by simp [regOfAccess]

/-- What every register reads as after a write of a descriptor register (R24). -/
theorem State.readReg_writeReg (s : State) (v : Word) {r : Reg} (hcmd : r ≠ .cmd) (hstatus : r ≠ .status)
    (hreserved : r ≠ .reserved) (r' : Reg) : (s.writeReg v r).readReg r' = if r' = r then v else s.readReg r' := by
  cases r
  case cmd | status | reserved => contradiction
  all_goals cases r' <;> rfl

/-- A register write other than of CMD changes descriptor registers at most. -/
theorem State.writeReg_eq_setRegs (s : State) (v : Word) {r : Reg} (hcmd : r ≠ .cmd) :
    s.writeReg v r = s.setRegs (s.writeReg v r).regs := by
  cases r
  case cmd => contradiction
  all_goals rfl

/-! ### The fields of STATUS -/

section
variable (err : ErrCode) (busy keyValid : Bool) (variant : Variant)

/-- Every bit of the STATUS word (R23). -/
theorem statusWord_getLsbD (n : Nat) :
    (statusWord err busy keyValid variant).getLsbD n =
      if n < 4 then err.code.getLsbD n else if n = 8 then busy else if n = 9 then keyValid else
        if n = 10 then variant.bit else false := by
  change BitVec.getLsbD (w := 21 + 1 + 1 + 1 + 4 + 4) ((0 : BitVec 21) ++ BitVec.ofBool variant.bit
    ++ BitVec.ofBool keyValid ++ BitVec.ofBool busy ++ (0 : BitVec 4) ++ err.code) n = _
  simp only [BitVec.getLsbD_append, BitVec.getLsbD_ofBool, BitVec.ofNat_eq_ofNat, BitVec.getLsbD_zero]
  grind

theorem statusWord_err : (statusWord err busy keyValid variant).extractLsb' 0 4 = err.code := by
  apply BitVec.eq_of_getLsbD_eq
  intro i hi
  rw [BitVec.getLsbD_extractLsb', statusWord_getLsbD]
  grind

theorem statusWord_bits_7_4 : (statusWord err busy keyValid variant).extractLsb' 4 4 = 0 := by
  apply BitVec.eq_of_getLsbD_eq
  intro i hi
  rw [BitVec.getLsbD_extractLsb', statusWord_getLsbD]
  grind

theorem statusWord_bits_31_11 : (statusWord err busy keyValid variant).extractLsb' 11 21 = 0 := by
  apply BitVec.eq_of_getLsbD_eq
  intro i hi
  rw [BitVec.getLsbD_extractLsb', statusWord_getLsbD]
  grind

end

theorem Variant.bit_eq_decide (v : Variant) : v.bit = decide (v = .fast) := by cases v <;> rfl

/-- The codes 8 to 15 are never produced (60_exceptions.md R241). -/
theorem ErrCode.code_lt (c : ErrCode) : c.code.toNat < 8 := by cases c <;> decide

end Sys2Proof.Machine
end

section
/-! The invariant: every operation of the state keeps it, so every command, host action and step does (O10). -/

namespace Sys2Proof.Machine

open Sys2Proof.Statements

section
variable {s : State}

theorem State.Inv.setAgenda (h : s.Inv) (rest : List Turn) : (s.setAgenda rest).Inv :=
  ⟨h.mem_wf, h.busy_err, h.busy_awaiting, h.key_schedule, h.fast_keyed⟩

theorem State.Inv.mark (h : s.Inv) (v : Violation) : (s.mark v).Inv :=
  ⟨h.mem_wf, h.busy_err, h.busy_awaiting, h.key_schedule, h.fast_keyed⟩

theorem State.Inv.record (h : s.Inv) (r : Reading) : (s.record r).Inv :=
  ⟨h.mem_wf, h.busy_err, h.busy_awaiting, h.key_schedule, h.fast_keyed⟩

theorem State.Inv.setRegs (h : s.Inv) (r : Descriptors) : (s.setRegs r).Inv :=
  ⟨h.mem_wf, h.busy_err, h.busy_awaiting, h.key_schedule, h.fast_keyed⟩

theorem State.Inv.setQ (h : s.Inv) (w : EngineWords) : (s.setQ w).Inv :=
  ⟨h.mem_wf, h.busy_err, h.busy_awaiting, h.key_schedule, h.fast_keyed⟩

/-- A read of STATUS settles the read of R273 only while BUSY = 0. -/
theorem State.Inv.statusRead (h : s.Inv) : s.statusRead.Inv where
  mem_wf := h.mem_wf
  busy_err := h.busy_err
  busy_awaiting hb := by
    have hbusy : s.busy = true := hb
    simp [h.busy_awaiting hbusy, hbusy]
  key_schedule := h.key_schedule
  fast_keyed := h.fast_keyed

theorem State.Inv.issue (h : s.Inv) (w : Word) : (s.issue w).Inv :=
  ⟨h.mem_wf, fun _ => rfl, fun _ => rfl, h.key_schedule, h.fast_keyed⟩

theorem State.Inv.setMem (h : s.Inv) {m : Memory} (hm : m.wf s.cfg.memSize) : (s.setMem m).Inv :=
  ⟨hm, h.busy_err, h.busy_awaiting, h.key_schedule, h.fast_keyed⟩

/-- A store keeps the invariant when its region lies in M. -/
theorem State.Inv.store (h : s.Inv) {p : Word} {v : List Byte} (hr : (Region.mk p v.length).inRange s.cfg = true) :
    (s.store p v).Inv := by
  refine h.setMem (Memory.wf_writeBytes h.mem_wf ?_)
  simpa using (Region.inRange_iff _ _).1 hr

/-- A key schedule written with KEY_VALID set keeps the invariant. -/
theorem State.Inv.setKey (h : s.Inv) {key : List Byte} (hkey : key.length = 32) (v : Variant) :
    (s.setKey (deriveK key) v).Inv :=
  ⟨h.mem_wf, h.busy_err, h.busy_awaiting, fun _ => ⟨key, hkey, rfl⟩, fun _ => rfl⟩

theorem State.Inv.endCommand (h : s.Inv) (i : Instr) (c : ErrCode) : (s.endCommand i c).Inv where
  mem_wf := by simpa using h.mem_wf
  busy_err hb := by simp at hb
  busy_awaiting hb := by simp at hb
  key_schedule hk := by simpa using h.key_schedule (by simpa using hk)
  fast_keyed hv := by simpa using h.fast_keyed (by simpa using hv)

theorem State.Inv.finish (h : s.Inv) (c : ErrCode) : (s.finish c).Inv where
  mem_wf := h.mem_wf
  busy_err hb := by simp at hb
  busy_awaiting hb := by simp at hb
  key_schedule := h.key_schedule
  fast_keyed := h.fast_keyed

theorem State.Inv.applyReset (h : s.Inv) : s.applyReset.Inv where
  mem_wf := h.mem_wf
  busy_err hb := by simp at hb
  busy_awaiting hb := by simp at hb
  key_schedule hk := by simp at hk
  fast_keyed hv := by simp at hv

theorem State.Inv.writeReg (h : s.Inv) (v : Word) (r : Reg) : (s.writeReg v r).Inv := by
  by_cases hr : r = .cmd
  · subst hr
    exact h.issue v
  · rw [s.writeReg_eq_setRegs v hr]
    exact h.setRegs _

@[simp] theorem State.writeReg_cfg (s : State) (v : Word) (r : Reg) : (s.writeReg v r).cfg = s.cfg := by
  cases r <;> rfl

/-- The effect of a command whose checks pass keeps the invariant: a new DK is a schedule of the 32 bytes at KEY_PTR,
and the bytes written lie in M. -/
theorem State.Inv.applyEffect (h : s.Inv) {i : Instr} (hn : s.commandError i = none) :
    (s.applyEffect (s.commandEffect i)).Inv := by
  cases he : s.commandEffect i with
  | key dk v =>
    obtain ⟨-, rfl⟩ := State.commandEffect_key he
    exact h.setKey (by simp [State.keyRegion]) v
  | bytes out c => exact h.store (State.commandEffect_bytes_inRange hn he)
  | words w => exact h.setQ w

/-! ### The invariant under the commands, the host's actions and the step -/

theorem State.Inv.afterCommand (h : s.Inv) (i : Instr) : (s.afterCommand i).Inv := by
  rcases s.afterCommand_cases i with ⟨e, -, ht⟩ | ⟨hn, ht⟩ <;> rw [ht]
  · exact h.endCommand i e
  · exact (h.applyEffect hn).endCommand i _

@[simp] theorem State.afterCommand_cfg (s : State) (i : Instr) : (s.afterCommand i).cfg = s.cfg := by
  rcases s.afterCommand_cases i with ⟨e, -, ht⟩ | ⟨-, ht⟩ <;> simp [ht]

theorem hostStep_keeps_inv {t : State} {a : HostAct} (h : s.Inv) (ht : hostStep a s = .next t) :
    t.Inv ∧ t.cfg = s.cfg := by
  rcases hostStep_cases a s with ⟨v, he⟩ | ⟨-, r, v, he⟩ | ⟨-, p, v, hin, he⟩ | ⟨r, he⟩ | ⟨r, he⟩ | ⟨-, he⟩ <;>
    rw [ht] at he <;> cases he
  · exact ⟨h.mark v, rfl⟩
  · exact ⟨h.writeReg v r, s.writeReg_cfg v r⟩
  · have hfit : v = [] ∨ p + v.length ≤ s.cfg.memSize := by simpa using (insideM_iff _ _ _).1 hin
    exact ⟨h.setMem (Memory.wf_writeBytes h.mem_wf hfit), rfl⟩
  · exact ⟨h.record r, rfl⟩
  · exact ⟨(h.record r).statusRead, rfl⟩

theorem coreStep_keeps_inv {t : State} (h : s.Inv) (ht : coreStep s = .next t) : t.Inv ∧ t.cfg = s.cfg := by
  rcases coreStep_cases s with ⟨-, he⟩ | ⟨-, -, he⟩ | ⟨-, i, -, he⟩
  · cases ht.symm.trans he
    exact ⟨h, rfl⟩
  · cases ht.symm.trans he
    exact ⟨h.finish .illegal, rfl⟩
  · cases (ht.symm.trans he).trans (exec_eq i s)
    exact ⟨h.afterCommand i, s.afterCommand_cfg i⟩

end

/-- Settles O10: a step is a reset, a host action or a core step, and each keeps the invariant and MEM_SIZE. -/
theorem stepKeepsInvariant : Obligations.StepKeepsInvariant := by
  intro s t h ht
  rcases step_cases s with ⟨rest, -, he⟩ | ⟨a, rest, -, -, he⟩ | ⟨-, -, he⟩ | ⟨v, -, -, he⟩
  · cases ht.symm.trans he
    exact ⟨(h.setAgenda rest).applyReset, rfl⟩
  · obtain ⟨hinv, hcfg⟩ := hostStep_keeps_inv (h.setAgenda rest) (he.symm.trans ht)
    exact ⟨hinv, hcfg⟩
  · obtain ⟨hinv, hcfg⟩ := coreStep_keeps_inv (h.setAgenda _) (he.symm.trans ht)
    exact ⟨hinv, hcfg⟩
  · cases ht.symm.trans he

end Sys2Proof.Machine
end

section
/-! What the commands do to the registers, the key state and Q (O12, O13, O17). -/

namespace Sys2Proof.Machine

open Sys2Proof.Statements

/-- The state in which a command ends is that of `State.afterCommand`. -/
theorem eq_afterCommand_of_exec {i : Instr} {s t : State} (h : exec i s = .next t) : t = s.afterCommand i := by
  rw [exec_eq] at h
  cases h
  rfl

/-- Settles O12: both a failed and a completed command keep each of the fields. -/
theorem commandsCompleteAndKeepRegisters : Obligations.CommandsCompleteAndKeepRegisters := by
  intro i s
  refine ⟨s.afterCommand i, exec_eq i s, ?_⟩
  rcases s.afterCommand_cases i with ⟨e, -, ht⟩ | ⟨-, ht⟩ <;> simp [ht]

/-- An effect other than a new key leaves DK, KEY_VALID and VARIANT. -/
theorem State.applyEffect_key_state (s : State) {e : Effect} (he : ∀ dk v, e ≠ .key dk v) :
    (s.applyEffect e).dk = s.dk ∧ (s.applyEffect e).keyValid = s.keyValid ∧
      (s.applyEffect e).variant = s.variant := by
  cases e with
  | key dk v => exact absurd rfl (he dk v)
  | bytes out c => exact ⟨rfl, rfl, rfl⟩
  | words w => exact ⟨rfl, rfl, rfl⟩

/-- A command either succeeds as a KEY_SETUP or leaves DK, KEY_VALID and VARIANT. -/
theorem State.afterCommand_key_state (s : State) (i : Instr) :
    ((∃ v, i = .keySetup v) ∧ (s.afterCommand i).err = .ok ∧ (s.afterCommand i).keyValid = true) ∨
    ((s.afterCommand i).dk = s.dk ∧ (s.afterCommand i).keyValid = s.keyValid ∧
      (s.afterCommand i).variant = s.variant) := by
  rcases s.afterCommand_cases i with ⟨e, -, ht⟩ | ⟨-, ht⟩
  · exact .inr (by simp [ht])
  · cases he : s.commandEffect i with
    | key dk v => exact .inl ⟨(State.commandEffect_key he).1, by simp [ht, he, State.applyEffect, Effect.code]⟩
    | bytes out c => exact .inr (by simpa [ht, he] using s.applyEffect_key_state (by simp))
    | words w => exact .inr (by simpa [ht, he] using s.applyEffect_key_state (by simp))

/-- Settles O13, from the two ways a command can leave the key state. -/
theorem keyStateWrittenOnlyByKeySetup : Obligations.KeyStateWrittenOnlyByKeySetup := by
  intro i s t ht
  rw [eq_afterCommand_of_exec ht]
  rcases s.afterCommand_key_state i with ⟨hi, herr, hvalid⟩ | ⟨hdk, hvalid, hvariant⟩
  · exact ⟨fun _ => ⟨hi, herr⟩, fun _ => hvalid⟩
  · refine ⟨fun hne => ?_, fun hs => hvalid.trans hs⟩
    rcases hne with hne | hne | hne
    · exact absurd hdk hne
    · exact absurd hvalid hne
    · exact absurd hvariant hne

/-! ### Keyed commands and the Q before them -/

/-- No check reads Q. -/
theorem State.commandError_setQ (s : State) (q : EngineWords) (i : Instr) :
    (s.setQ q).commandError i = s.commandError i := by
  cases i <;> rfl

/-- No KEY_SETUP, BC_* or AEAD_* command reads Q. -/
theorem State.commandEffect_setQ (s : State) (q : EngineWords) {i : Instr} (hi : isEngine i = false) :
    (s.setQ q).commandEffect i = s.commandEffect i := by
  cases i
  case keySetup | aeadEnc | aeadDec | bcEnc | bcDualKs | bcTag1 | bcTag2 => rfl
  all_goals cases hi

/-- The draws at the end of a keyed command hide the Q before its effect. -/
theorem State.applyEffect_setQ_finishKeyed (s : State) (q : EngineWords) (e : Effect) (c : ErrCode) :
    ((s.setQ q).applyEffect e).finishKeyed c = (s.applyEffect e).finishKeyed c := by
  cases e <;> rfl

theorem State.afterCommand_setQ (s : State) (q : EngineWords) {i : Instr} (hi : isEngine i = false) :
    (s.setQ q).afterCommand i = s.afterCommand i := by
  cases h : s.commandError i with
  | some e =>
    rw [State.afterCommand_of_error h, State.afterCommand_of_error ((s.commandError_setQ q i).trans h),
      State.endCommand_of_keyed _ _ hi, State.endCommand_of_keyed _ _ hi]
    rfl
  | none =>
    rw [State.afterCommand_of_none h, State.afterCommand_of_none ((s.commandError_setQ q i).trans h),
      s.commandEffect_setQ q hi, State.endCommand_of_keyed _ _ hi, State.endCommand_of_keyed _ _ hi,
      s.applyEffect_setQ_finishKeyed]

/-- A keyed command ends with the next eight draws in Q, whatever its outcome (10_state.md R31). -/
theorem State.afterCommand_draws (s : State) {i : Instr} (hi : isEngine i = false) :
    (s.afterCommand i).draws = s.draws + 8 ∧ (s.afterCommand i).q = s.drawQ.q := by
  rcases s.afterCommand_cases i with ⟨e, -, ht⟩ | ⟨-, ht⟩ <;> rw [ht, State.endCommand_of_keyed _ _ hi]
  · exact ⟨rfl, rfl⟩
  · simp [State.drawQ]

/-- Settles O17: neither the checks nor the effect of a keyed command read Q, and its end draws Q afresh. -/
theorem keyedCommandsForgetQ : Obligations.KeyedCommandsForgetQ := by
  intro i s q hi
  obtain ⟨hdraws, hq⟩ := s.afterCommand_draws hi
  refine ⟨?_, s.afterCommand i, exec_eq i s, hdraws, hq⟩
  rw [exec_eq, exec_eq]
  exact congrArg _ (s.afterCommand_setQ q hi)

end Sys2Proof.Machine
end

section
/-! DK cannot be observed before the first key (O19): the two states are carried through each kind of turn. -/

namespace Sys2Proof.Machine

open Sys2Proof.Statements

/-- The state with another DK. -/
def State.withDk (s : State) (d : Vector Block 17) : State := { s with dk := d }

/-- Two outcomes that a host cannot tell apart without a key: next states equal but for DK, or the same fault. -/
def SameButDk (o o' : Host.Outcome State Fault Refusal) : Prop :=
  (∀ t, o = .next t → ∃ u, o' = .next u ∧ u.withDk t.dk = t) ∧ ∀ f, o = .fault f → o' = .fault f

theorem SameButDk.next {t u : State} (h : u.withDk t.dk = t) : SameButDk (.next t) (.next u) := by
  refine ⟨fun t' ht' => ?_, fun f hf => ?_⟩
  · cases ht'
    exact ⟨u, rfl, h⟩
  · cases hf

theorem SameButDk.fault (f : Fault) : SameButDk (.fault f) (.fault f) :=
  ⟨fun _ ht => absurd ht (by simp), fun _ hf => hf⟩

section
variable (s : State) (d : Vector Block 17)

/-- No check reads DK. -/
theorem State.commandError_withDk (i : Instr) : (s.withDk d).commandError i = s.commandError i := by
  cases i <;> rfl

/-- KEY_SETUP and the Q_* commands never read DK, and any other command reads it only with a key. -/
theorem State.commandEffect_withDk {s : State} {i : Instr} (hk : s.keyValid = false) (hn : s.commandError i = none) :
    (s.withDk d).commandEffect i = s.commandEffect i := by
  have hkeyed (hi : isEngine i = false) (hset : ∀ b, i ≠ .keySetup b) :
      (s.withDk d).commandEffect i = s.commandEffect i := by
    have := State.keyValid_of_commandError_none hi hset hn
    simp [hk] at this
  cases i
  case aeadEnc | aeadDec | bcEnc | bcDualKs | bcTag1 | bcTag2 => exact hkeyed rfl (by simp)
  all_goals rfl

theorem State.endCommand_withDk (i : Instr) (c : ErrCode) : (s.withDk d).endCommand i c = (s.endCommand i c).withDk d := by
  cases hi : isEngine i
  · simp only [State.endCommand_of_keyed _ _ hi]
    rfl
  · simp only [State.endCommand_of_engine _ _ hi]
    rfl

/-- An effect makes of two states that differ in DK alone two such states again. -/
theorem State.applyEffect_withDk (e : Effect) :
    ∃ d', (s.withDk d).applyEffect e = (s.applyEffect e).withDk d' := by
  cases e with
  | key dk v => exact ⟨dk, rfl⟩
  | bytes out c => exact ⟨d, rfl⟩
  | words w => exact ⟨d, rfl⟩

theorem State.afterCommand_withDk {s : State} (i : Instr) (hk : s.keyValid = false) :
    ∃ d', (s.withDk d).afterCommand i = (s.afterCommand i).withDk d' := by
  cases h : s.commandError i with
  | some e =>
    rw [State.afterCommand_of_error h, State.afterCommand_of_error ((s.commandError_withDk d i).trans h)]
    exact ⟨d, s.endCommand_withDk d i e⟩
  | none =>
    obtain ⟨d', hd'⟩ := s.applyEffect_withDk d (s.commandEffect i)
    rw [State.afterCommand_of_none h, State.afterCommand_of_none ((s.commandError_withDk d i).trans h),
      State.commandEffect_withDk d hk h, hd']
    exact ⟨d', State.endCommand_withDk _ d' i _⟩

theorem sameButDk_exec {s : State} (i : Instr) (hk : s.keyValid = false) :
    SameButDk (exec i s) (exec i (s.withDk d)) := by
  obtain ⟨d', hd'⟩ := State.afterCommand_withDk d i hk
  rw [exec_eq, exec_eq, hd']
  exact .next rfl

theorem sameButDk_coreStep {s : State} (hk : s.keyValid = false) :
    SameButDk (coreStep s) (coreStep (s.withDk d)) := by
  rcases coreStep_cases s with ⟨hb, he⟩ | ⟨hb, ⟨e, hd⟩, he⟩ | ⟨hb, i, hd, he⟩
  · rw [he, coreStep_of_idle (s := s.withDk d) hb]
    exact .next rfl
  · rw [he, coreStep_of_illegal (s := s.withDk d) hb hd]
    exact .next rfl
  · rw [he, coreStep_of_decode (s := s.withDk d) hb hd]
    exact sameButDk_exec d i hk

theorem State.writeReg_withDk (v : Word) (r : Reg) : (s.withDk d).writeReg v r = (s.writeReg v r).withDk d := by
  cases r <;> rfl

theorem sameButDk_regWrite (o w : Nat) (v : Word) :
    SameButDk (hostStep (.regWrite o w v) s) (hostStep (.regWrite o w v) (s.withDk d)) := by
  cases hr : regOfAccess o w with
  | none =>
    rw [hostStep_regWrite_malformed v hr, hostStep_regWrite_malformed v hr]
    exact .next rfl
  | some r =>
    cases hk : s.hostBarred with
    | some k =>
      rw [hostStep_regWrite_barred v hr hk, hostStep_regWrite_barred (s := s.withDk d) v hr hk]
      exact .next rfl
    | none =>
      obtain ⟨hb, ha⟩ := State.hostBarred_eq_none.1 hk
      rw [hostStep_regWrite_free v hr hb ha, hostStep_regWrite_free (s := s.withDk d) v hr hb ha,
        s.writeReg_withDk d]
      exact .next rfl

theorem sameButDk_regRead (o w : Nat) :
    SameButDk (hostStep (.regRead o w) s) (hostStep (.regRead o w) (s.withDk d)) := by
  cases hr : regOfAccess o w with
  | none =>
    rw [hostStep_regRead_malformed hr, hostStep_regRead_malformed hr]
    exact .next rfl
  | some r =>
    have hread : (s.withDk d).readReg r = s.readReg r := by cases r <;> rfl
    have hafter (x : Reading) : (((s.withDk d).record x).afterRead r) = ((s.record x).afterRead r).withDk d := by
      cases r <;> rfl
    rw [hostStep_regRead hr, hostStep_regRead hr, hread, hafter]
    exact .next rfl

theorem sameButDk_memWrite (a : Nat) (v : List Byte) :
    SameButDk (hostStep (.memWrite a v) s) (hostStep (.memWrite a v) (s.withDk d)) := by
  cases hk : s.hostBarred with
  | some k =>
    rw [hostStep_memWrite_barred v hk, hostStep_memWrite_barred (s := s.withDk d) v hk]
    exact .next rfl
  | none =>
    cases hin : insideM s.cfg a v.length
    · rw [hostStep_memWrite_outside hk hin, hostStep_memWrite_outside (s := s.withDk d) hk hin]
      exact .fault _
    · rw [hostStep_memWrite_inside hk hin, hostStep_memWrite_inside (s := s.withDk d) hk hin]
      exact .next rfl

theorem sameButDk_memRead (a n : Nat) :
    SameButDk (hostStep (.memRead a n) s) (hostStep (.memRead a n) (s.withDk d)) := by
  cases hk : s.hostBarred with
  | some k =>
    rw [hostStep_memRead_barred n hk, hostStep_memRead_barred (s := s.withDk d) n hk]
    exact .next rfl
  | none =>
    cases hin : insideM s.cfg a n
    · rw [hostStep_memRead_outside hk hin, hostStep_memRead_outside (s := s.withDk d) hk hin]
      exact .fault _
    · rw [hostStep_memRead_inside hk hin, hostStep_memRead_inside (s := s.withDk d) hk hin]
      exact .next rfl

theorem sameButDk_hostStep (a : HostAct) : SameButDk (hostStep a s) (hostStep a (s.withDk d)) := by
  cases a with
  | regWrite o w v => exact sameButDk_regWrite s d o w v
  | regRead o w => exact sameButDk_regRead s d o w
  | memWrite a v => exact sameButDk_memWrite s d a v
  | memRead a n => exact sameButDk_memRead s d a n

theorem sameButDk_step {s : State} (hk : s.keyValid = false) : SameButDk (step s) (step (s.withDk d)) := by
  rcases step_cases s with ⟨rest, ha, he⟩ | ⟨a, rest, ha, hf, he⟩ | ⟨hc, hf, he⟩ | ⟨v, hf, ha, he⟩ <;> rw [he]
  · rw [step_of_reset (s := s.withDk d) ha]
    exact .next rfl
  · rw [step_of_host (s := s.withDk d) ha hf]
    exact sameButDk_hostStep (s.setAgenda rest) d a
  · rw [step_of_core (s := s.withDk d) hc hf]
    exact sameButDk_coreStep (s := s.setAgenda s.agenda.tail) d hk
  · rw [step_of_marked (s := s.withDk d) hf ha]
    exact .fault _

end

/-- Settles O19: no turn lets DK through while KEY_VALID = 0. -/
theorem dkUnobservableWithoutKey : Obligations.DkUnobservableWithoutKey :=
  fun _ d hk => sameButDk_step d hk

end Sys2Proof.Machine
end

section
/-! The core's turn (O5, O6, O7) and the host's registers (O53 to O57). -/

namespace Sys2Proof.Machine

open Sys2Proof.Statements

/-- Settles O5: the core's turn leaves the mark-free state's command to `coreStep`, which decodes PENDING. -/
theorem stepRunsDecodedCommand : Obligations.StepRunsDecodedCommand := by
  intro s i _ hf hc hb hd
  rw [step_of_core hc hf]
  exact coreStep_of_decode (s := s.setAgenda s.agenda.tail) hb hd

/-- Settles O6: the placed word is the command's own, which the decoder reads back. -/
theorem placedWordRunsNext : Obligations.PlacedWordRunsNext := by
  intro s i _
  rw [s.withFetchWord_word (encode i)]
  have hcore : step (placeCommand s (encode i)) = coreStep (placeCommand s (encode i)) := step_of_core (.inl rfl) rfl
  exact ⟨hcore.trans (coreStep_of_decode rfl (decodeWord_encode i)), rfl, rfl, rfl, rfl⟩

/-- Settles O7: the core's turn is taken off the agenda, and `coreStep` is idle. -/
theorem idleCoreChangesNothing : Obligations.IdleCoreChangesNothing := by
  intro s hf hc hb
  rw [step_of_core hc hf]
  exact coreStep_of_idle (s := s.setAgenda s.agenda.tail) hb

/-! ### The host's registers -/

/-- Settles O53: the fields of the STATUS word, and a write that reaches STATUS leaves the state. -/
theorem statusFields : Obligations.StatusFields := by
  refine ⟨fun s => ⟨statusWord_err .., s.err.code_lt, statusWord_bits_7_4 .., ?_, ?_, ?_, statusWord_bits_31_11 ..⟩,
    by decide, fun s v hb ha => hostStep_regWrite_free (r := .status) v rfl hb ha⟩
  · exact statusWord_getLsbD ..
  · exact statusWord_getLsbD ..
  · rw [← Variant.bit_eq_decide]
    exact statusWord_getLsbD ..

/-- Settles O54, by the three cases of a register write and the read of CMD. -/
theorem commandWriteIssues : Obligations.CommandWriteIssues := by
  intro s v
  have hcmd : regOfAccess 0x00 4 = some .cmd := rfl
  refine ⟨fun hb ha => hostStep_regWrite_free v hcmd hb ha, hostStep_regRead_of_ne hcmd (by decide),
    fun hb hf => ⟨_, hostStep_regWrite_barred v hcmd (State.hostBarred_of_busy hb), ?_⟩,
    fun hb ha hf => ⟨_, hostStep_regWrite_barred v hcmd (State.hostBarred_of_awaiting hb ha), ?_⟩⟩
  · simp [hf]
  · simp [hf]

/-- Beside the descriptor registers a register write other than of CMD changes nothing. -/
theorem State.writeReg_frame (s : State) (v : Word) {r : Reg} (hcmd : r ≠ .cmd) :
    { s.writeReg v r with regs := s.regs } = s := by
  rw [s.writeReg_eq_setRegs v hcmd]
  rfl

/-- Settles O55: the write stores, the read gives what every register reads as after it, and O12 covers the commands. -/
theorem descriptorWriteReadBack : Obligations.DescriptorWriteReadBack := by
  refine ⟨fun s r v hb ha hcmd hstatus hreserved => ⟨s.writeReg v r, ?_, ?_, ?_, s.writeReg_frame v hcmd⟩, ?_, ?_⟩
  · exact hostStep_regWrite_free v (regOfAccess_offset r) hb ha
  · rw [hostStep_regRead_of_ne (regOfAccess_offset r) hstatus,
      s.readReg_writeReg v hcmd hstatus hreserved, if_pos rfl]
    rfl
  · intro r' hr'
    rw [s.readReg_writeReg v hcmd hstatus hreserved, if_neg hr']
  · intro r
    cases r <;> rfl
  · intro i s t ht
    obtain ⟨u, hu, -, hregs, -⟩ := commandsCompleteAndKeepRegisters i s
    cases ht.symm.trans hu
    exact hregs

/-- Settles O56: the four offsets are the reserved register, which reads 0 and ignores a write. -/
theorem reservedOffsetsReadZero : Obligations.ReservedOffsetsReadZero := by
  intro s o v ho
  have hr : regOfAccess o 4 = some .reserved := by rcases ho with rfl | rfl | rfl | rfl <;> rfl
  exact ⟨hostStep_regRead_of_ne hr (by decide), fun hb ha => hostStep_regWrite_free v hr hb ha⟩

/-- A register read records its value, and settles the read of R273 when it is one of STATUS with BUSY = 0. -/
theorem hostStep_regRead_eq {s : State} {o w : Nat} {r : Reg} (hr : regOfAccess o w = some r) :
    hostStep (.regRead o w) s =
      .next { s with seen := s.seen ++ [.reg o (s.readReg r)], awaiting := s.awaiting && (decide (o ≠ 0x04) || s.busy) } := by
  have hstatus := eq_status_iff_of_regOfAccess hr
  by_cases ho : o = 0x04
  · rw [hostStep_regRead hr, hstatus.2 ho]
    simp [State.statusRead, State.record, ho]
  · rw [hostStep_regRead_of_ne hr (mt hstatus.1 ho)]
    simp [State.record, ho]

/-- Settles O57: an access reaches no register exactly when it is malformed. -/
theorem malformedRegisterAccessMarks : Obligations.MalformedRegisterAccessMarks := by
  intro s o w v hf
  constructor
  · intro hbad
    have hr := (regOfAccess_eq_none_iff o w).2 hbad
    exact ⟨⟨_, hostStep_regRead_malformed hr, by simp [hf]⟩, ⟨_, hostStep_regWrite_malformed v hr, by simp [hf]⟩⟩
  · intro hgood
    have hr : regOfAccess o w ≠ none := fun hr => (regOfAccess_eq_none_iff o w).1 hr hgood
    obtain ⟨r, hr⟩ := Option.ne_none_iff_exists'.1 hr
    exact ⟨s.readReg r, hostStep_regRead_eq hr⟩

end Sys2Proof.Machine
end

section
/-! The host's transfers to and from M (O60). -/

namespace Sys2Proof.Machine

open Sys2Proof.Statements

/-- A byte string that ends at or below MEM_SIZE lies in M. -/
theorem insideM_of_le {c : Config} {a n : Nat} (h : a + n ≤ c.memSize) : insideM c a n = true :=
  (insideM_iff c a n).2 (.inr h)

/-- When a host access does not lie in M: it has a byte and ends above MEM_SIZE. -/
theorem insideM_eq_false_iff (c : Config) (a n : Nat) : insideM c a n = false ↔ n ≠ 0 ∧ c.memSize < a + n := by
  rw [← Bool.not_eq_true, insideM_iff, not_or, not_le]

/-- What the host reads where it has just written: the bytes written (20_memory.md R60). -/
theorem hostStep_memRead_after_write {s : State} {a : Nat} {b : List Byte} (hfree : s.hostBarred = none)
    (hin : insideM s.cfg a b.length = true) :
    hostStep (.memRead a b.length) (s.setMem (s.mem.writeBytes a b)) =
      .next ((s.setMem (s.mem.writeBytes a b)).record (.mem a b)) := by
  have hread : (s.setMem (s.mem.writeBytes a b)).mem.readBytes a b.length = b :=
    Memory.readBytes_writeBytes_same s.mem a b
  rw [hostStep_memRead_inside (s := s.setMem (s.mem.writeBytes a b)) hfree hin, hread]

/-- Settles O60, by whether the access lies in M: a write there stores its bytes, an access elsewhere faults. -/
theorem hostMemoryTransfer : Obligations.HostMemoryTransfer := by
  intro s a b hb ha
  have hfree : s.hostBarred = none := State.hostBarred_of_free hb ha
  refine ⟨fun hle => ?_, fun hne hlt => ?_⟩
  · have hin := insideM_of_le hle
    exact ⟨s.setMem (s.mem.writeBytes a b), hostStep_memWrite_inside hfree hin, rfl,
      fun _ hx => Memory.read_writeBytes_outside s.mem a b hx, hostStep_memRead_after_write hfree hin⟩
  · have hlen : b.length ≠ 0 := mt List.length_eq_zero_iff.1 hne
    have hout := (insideM_eq_false_iff s.cfg a b.length).2 ⟨hlen, hlt⟩
    exact ⟨hostStep_memWrite_outside hfree hout, hostStep_memRead_outside hfree hout⟩

end Sys2Proof.Machine
end

section
/-! The decoder and the encoder (O1, O2, O3), and the core's turn on an illegal word (O4).

A word that a row of the opcode map matches is the encoder's word of the row's command, because a row's mask leaves no
bit open but V. A legal word matches a row, because it has no field but V and an operation code of R74. -/

namespace Sys2Proof

/-! ### A word that matches a row is the encoder's word -/

/-- The command word that sets V and nothing else (30_encoding.md R70). -/
def variantWord (v : Bool) : Word := if v then 0x100 else 0

/-- V is bit 8 of the word. -/
theorem and_variantWord (w : Word) : w &&& variantWord true = variantWord (vField w) := by
  have hbit : w &&& BitVec.twoPow 32 8 = if w.getLsbD 8 then BitVec.twoPow 32 8 else 0 := BitVec.and_twoPow w 8
  exact hbit

/-- The mask of a row compares every bit but V (R71, R74). -/
theorem openBits_of_mem {r : OpcodeRow} (hr : r ∈ opcodeTable) : ~~~r.mask = variantWord true &&& ~~~r.mask := by
  revert r
  decide

/-- The encoder's word of a row's command: the row's pattern, with V where the mask leaves it open (R72, R79). -/
theorem encode_instr_of_mem {r : OpcodeRow} (hr : r ∈ opcodeTable) (v : Bool) :
    encode (r.instr v) = r.pattern ||| (variantWord v &&& ~~~r.mask) := by
  revert r v
  decide

/-- A word that a row matches is the encoder's word of the row's command. -/
theorem eq_encode_of_rowMatches {w : Word} {r : OpcodeRow} (hr : r ∈ opcodeTable) (hm : rowMatches w r = true) :
    w = encode (r.instr (vField w)) := by
  have hpattern : w &&& r.mask = r.pattern := by simpa [rowMatches] using hm
  have hopen : w &&& ~~~r.mask = variantWord (vField w) &&& ~~~r.mask := by
    rw [openBits_of_mem hr, ← BitVec.and_assoc, and_variantWord, ← openBits_of_mem hr]
  calc w = (w &&& r.mask) ||| (w &&& ~~~r.mask) := by
        rw [← BitVec.and_or_distrib_left, BitVec.or_not_self, BitVec.and_allOnes]
    _ = encode (r.instr (vField w)) := by rw [hpattern, hopen, encode_instr_of_mem hr]

/-- The decoder reads a command from its own word only. -/
theorem eq_encode_of_decodeWord {w : Word} {i : Instr} (h : decodeWord w = .ok i) : w = encode i := by
  unfold decodeWord at h
  split at h
  next r hr =>
    cases h
    exact eq_encode_of_rowMatches (List.mem_of_find?_eq_some hr) (List.find?_some hr)
  next => cases h

/-- The decoder refuses exactly the words that are no command's own. -/
theorem exists_decodeWord_error {w : Word} (h : ∀ i, w ≠ encode i) : ∃ e, decodeWord w = .error e := by
  cases hd : decodeWord w with
  | ok i => exact absurd (eq_encode_of_decodeWord hd) (h i)
  | error e => exact ⟨e, rfl⟩

/-! ### The legal words are the encoder's words -/

/-- A word is its three fields (R70). -/
theorem fields_append (w : Word) : rsvField w ++ BitVec.ofBool (vField w) ++ opField w = w := by
  apply BitVec.eq_of_getLsbD_eq
  intro i hi
  simp only [rsvField, vField, opField, BitVec.getLsbD_append, BitVec.getLsbD_ofBool, BitVec.getLsbD_extractLsb']
  grind

/-- With the reserved bits clear, an assigned operation code matches a row, with V set only beside 0x01 (R74). -/
theorem exists_row_of_assigned {op : Byte} (hop : op ∈ assignedOps) {v : Bool} (hv : v = true → op = 0x01) :
    ∃ r ∈ opcodeTable, rowMatches ((0 : BitVec 23) ++ BitVec.ofBool v ++ op) r = true := by
  revert op v
  decide

/-- The three checks of R75 in plain terms. -/
theorem wordLegal_iff (w : Word) :
    wordLegal w = true ↔ opField w ∈ assignedOps ∧ rsvField w = 0 ∧ (vField w = true → opField w = 0x01) := by
  cases hv : vField w <;> simp [wordLegal, opAssigned, reservedClear, variantAllowed, hv, and_assoc]

/-- A legal word matches a row of the opcode map. -/
theorem exists_row_of_wordLegal {w : Word} (h : wordLegal w = true) : ∃ r ∈ opcodeTable, rowMatches w r = true := by
  obtain ⟨hop, hrsv, hv⟩ := (wordLegal_iff w).1 h
  have hrow := exists_row_of_assigned hop hv
  rwa [← hrsv, fields_append] at hrow

open Laws.EncodedWordLegal in
/-- Every word of the encoder is legal. -/
theorem wordLegal_encode (i : Instr) : wordLegal (encode i) = true := by
  cases i
  exacts [keySetup _, aeadEnc, aeadDec, bcEnc, bcDualKs, bcTag1, bcTag2, qLoad1, qLoad2, qStore1, qStore2, qOrtho,
    qAddrk, qSub, qSr, qMc]

/-- The legal words are the encoder's. -/
theorem wordLegal_iff_exists_encode (w : Word) : wordLegal w = true ↔ ∃ i, w = encode i := by
  constructor
  · intro h
    obtain ⟨r, hr, hm⟩ := exists_row_of_wordLegal h
    exact ⟨_, eq_encode_of_rowMatches hr hm⟩
  · rintro ⟨i, rfl⟩
    exact wordLegal_encode i

/-! ### The rows that a word matches -/

/-- One row, and no second one, matches a command's own word. -/
theorem exists_filter_rowMatches_encode (i : Instr) : ∃ r, opcodeTable.filter (rowMatches (encode i)) = [r] := by
  cases i with
  | keySetup v => cases v <;> exact ⟨_, rfl⟩
  | _ => exact ⟨_, rfl⟩

/-- No row matches a word that is no command's own. -/
theorem filter_rowMatches_eq_nil {w : Word} (h : ∀ i, w ≠ encode i) : opcodeTable.filter (rowMatches w) = [] :=
  List.filter_eq_nil_iff.2 fun _ hr hm => h _ (eq_encode_of_rowMatches hr hm)

end Sys2Proof

namespace Sys2Proof.Machine

open Sys2Proof.Statements

/-- Settles O1: each of the seven words is the encoder's word of its command. -/
theorem handWrittenWordsDecode : Obligations.HandWrittenWordsDecode :=
  ⟨decodeWord_encode (.keySetup false), decodeWord_encode (.keySetup true), decodeWord_encode .aeadEnc,
    decodeWord_encode .aeadDec, decodeWord_encode .bcTag2, decodeWord_encode .qAddrk, decodeWord_encode .qMc⟩

/-- Settles O2: a word that decodes to a command matches the row that gives back its own word. -/
theorem decodeEncodeAgree : Obligations.DecodeEncodeAgree := by
  intro i w _
  refine ⟨eq_encode_of_decodeWord, ?_⟩
  rintro rfl
  exact decodeWord_encode i

/-- Settles O3, by whether the word is a command's own. -/
theorem everyWordIsOneRowOrIllegal : Obligations.EveryWordIsOneRowOrIllegal := by
  intro w
  by_cases h : ∃ i, w = encode i
  · obtain ⟨i, rfl⟩ := h
    exact .inl ⟨exists_filter_rowMatches_encode i, ⟨i, decodeWord_encode i⟩, wordLegal_encode i⟩
  · have hne : ∀ i, w ≠ encode i := not_exists.1 h
    have hill : wordLegal w = false := Bool.eq_false_iff.2 (mt (wordLegal_iff_exists_encode w).1 h)
    exact .inr ⟨filter_rowMatches_eq_nil hne, exists_decodeWord_error hne, hill⟩

/-- Settles O4: each of the three conditions fails a check of R75, so the word is no command's own and the core's turn
ends with ILLEGAL. -/
theorem illegalWordFinishesIllegal : Obligations.IllegalWordFinishesIllegal := by
  intro s hf hc hb hbad
  have hne : ∀ i, s.pending ≠ encode i := by
    intro i hi
    obtain ⟨hop, hrsv, hv⟩ := (wordLegal_iff s.pending).1 ((wordLegal_iff_exists_encode s.pending).2 ⟨i, hi⟩)
    rcases hbad with hnop | hnrsv | ⟨hset, hnop⟩
    · exact hnop hop
    · exact hnrsv hrsv
    · exact hnop (hv hset)
  obtain ⟨e, he⟩ := exists_decodeWord_error hne
  rw [step_of_core hc hf]
  exact coreStep_of_illegal (s := s.setAgenda s.agenda.tail) hb he

end Sys2Proof.Machine
end

section
/-! Where the commands write in M (O14). -/

namespace Sys2Proof.Machine

open Sys2Proof.Statements

/-- The bytes that a command writes fill its output region (30_encoding.md R78). -/
theorem State.outputRegion_of_commandEffect {s : State} {i : Instr} {out : List Byte} {c : ErrCode}
    (h : s.commandEffect i = .bytes out c) : s.outputRegion i = some (s.dstRegion out.length) := by
  cases i with
  | aeadEnc | aeadDec =>
    obtain ⟨rfl, -⟩ := Effect.bytes.inj h
    simp [State.outputRegion, State.inputRegion]
  | bcEnc | bcDualKs | bcTag1 | bcTag2 | qStore1 | qStore2 =>
    obtain ⟨rfl, -⟩ := Effect.bytes.inj h
    rfl
  | _ => cases h

/-- A command's effect leaves every byte of M outside the command's output region. -/
theorem State.applyEffect_read_outside {s : State} {i : Instr} {a : Nat}
    (ha : ∀ r, s.outputRegion i = some r → a < r.ptr.toNat ∨ r.ptr.toNat + r.len ≤ a) :
    (s.applyEffect (s.commandEffect i)).mem.read a = s.mem.read a := by
  cases he : s.commandEffect i with
  | key dk v => rfl
  | words w => rfl
  | bytes out c => exact Memory.read_writeBytes_outside _ _ out (ha _ (State.outputRegion_of_commandEffect he))

/-- Settles O14: a failed command keeps M, and a completed one stores its bytes in the output region. -/
theorem storesStayInOutputRegion : Obligations.StoresStayInOutputRegion := by
  intro i s t ht a ha
  rw [eq_afterCommand_of_exec ht]
  rcases s.afterCommand_cases i with ⟨e, -, hend⟩ | ⟨-, hend⟩ <;> rw [hend, State.endCommand_mem]
  exact State.applyEffect_read_outside ha

end Sys2Proof.Machine
end

section
/-! The byte-level round functions, byte by byte: the S-box (O25) and the row shift (O26).

`Block.cell` names a byte by its row and column, as 40_engine.md R100 does, and each round function has one equation in
these terms, whatever the row: the matrix of the column mix is circulant. -/

namespace Sys2Proof

/-! ### The S-box -/

/-- The linear map that undoes the affine map of R101. -/
def sboxLinearInverse (z : Byte) : Byte := rotl8 z 1 ^^^ rotl8 z 3 ^^^ rotl8 z 6

theorem sboxAffine_sboxLinearInverse : ∀ z : Byte, sboxAffine (sboxLinearInverse z) = z := by decide

/-- The inverse in GF(2^8) as the table of R102 tells it: the byte that the affine map takes to the table's entry. -/
def sboxInverse (x : Byte) : Byte := sboxLinearInverse (sbox x ^^^ 0x63)

theorem sboxAffine_sboxInverse (x : Byte) : sboxAffine (sboxInverse x) ^^^ 0x63 = sbox x := by
  rw [sboxInverse, sboxAffine_sboxLinearInverse, BitVec.xor_assoc, BitVec.xor_self, BitVec.xor_zero]

/-- Every nonzero entry of the table belongs to the inverse. -/
theorem gfMul_sboxInverse : ∀ x : Byte, x ≠ 0 → gfMul x (sboxInverse x) = 1 := by decide

theorem sbox_ne_self : ∀ x : Byte, sbox x ≠ x := by decide

/-- Settles O25: the byte that the table tells is the inverse, and the affine map takes it to the table's entry. -/
theorem sboxIsAffineInverse : Obligations.SboxIsAffineInverse := by
  refine ⟨fun x => ⟨⟨sboxInverse x, gfMul_sboxInverse x, ?_, (sboxAffine_sboxInverse x).symm⟩, sbox_ne_self x⟩,
    rfl, rfl, rfl, fun _ => rfl⟩
  rintro rfl
  rfl

/-! ### Rows and columns -/

/-- Byte (r, c) of the byte matrix of a block: row r of column c (40_engine.md R100). -/
def Block.cell (x : Block) (r c : Nat) : Byte := x.bytes.getD (r + 4 * c) 0

/-- Settles O26: one case for each byte of the block. -/
theorem rowShiftIndexForm : Obligations.RowShiftIndexForm := by
  intro b r c hr hc
  interval_cases r <;> interval_cases c <;> rfl

theorem shiftRows_cell (x : Block) {r c : Nat} (hr : r < 4) (hc : c < 4) :
    (shiftRows x).cell r c = x.cell r ((c + r) % 4) := rowShiftIndexForm x r c hr hc

theorem subBytes_cell (x : Block) {r c : Nat} (hr : r < 4) (hc : c < 4) :
    (subBytes x).cell r c = sbox (x.cell r c) := by
  interval_cases r <;> interval_cases c <;> rfl

theorem Block.xor_cell (x y : Block) {r c : Nat} (hr : r < 4) (hc : c < 4) :
    (x.xor y).cell r c = x.cell r c ^^^ y.cell r c := by
  interval_cases r <;> interval_cases c <;> rfl

/-- The first row of the matrix of R104 applied to four bytes. -/
def mixBytes (x0 x1 x2 x3 : Byte) : Byte := xtime x0 ^^^ triple x1 ^^^ x2 ^^^ x3

theorem mixColumn_eq_mixBytes (x : Column) :
    mixColumn x = ⟨mixBytes x.a0 x.a1 x.a2 x.a3, mixBytes x.a1 x.a2 x.a3 x.a0, mixBytes x.a2 x.a3 x.a0 x.a1,
      mixBytes x.a3 x.a0 x.a1 x.a2⟩ := by
  simp only [mixColumn, mixBytes]
  ac_rfl

/-- The column mix in index form (R104). -/
theorem mixColumns_cell (x : Block) {r c : Nat} (hr : r < 4) (hc : c < 4) :
    (mixColumns x).cell r c =
      mixBytes (x.cell r c) (x.cell ((r + 1) % 4) c) (x.cell ((r + 2) % 4) c) (x.cell ((r + 3) % 4) c) := by
  simp only [mixColumns, mixColumn_eq_mixBytes]
  interval_cases r <;> interval_cases c <;> rfl

end Sys2Proof
end

section
/-! SUPPORT. The bytes of a little-endian word. -/

namespace Sys2Proof

/-- Two columns with equal bits are equal. -/
theorem Column.ext_bits {x y : Column}
    (h : ∀ r k, r < 4 → k < 8 → (x.bytes.getD r 0).getLsbD k = (y.bytes.getD r 0).getLsbD k) : x = y := by
  have hb : ∀ r, r < 4 → x.bytes.getD r 0 = y.bytes.getD r 0 := fun r hr =>
    BitVec.eq_of_getLsbD_eq fun k hk => h r k hr hk
  exact Column.ext (hb 0 (by omega)) (hb 1 (by omega)) (hb 2 (by omega)) (hb 3 (by omega))

/-- Bit k of byte r of a column is bit 8r + k of its little-endian word. -/
theorem Column.leWord_getLsbD (x : Column) {r k : Nat} (hr : r < 4) (hk : k < 8) :
    x.leWord.getLsbD (8 * r + k) = (x.bytes.getD r 0).getLsbD k := by
  simp only [Column.leWord, BitVec.getLsbD_append]
  interval_cases r <;> interval_cases k <;> rfl

/-- Bit k of byte r of a word is its bit 8r + k. -/
theorem le32bytes_getLsbD (w : Word) {r k : Nat} (hr : r < 4) (hk : k < 8) :
    ((le32bytes w).bytes.getD r 0).getLsbD k = w.getLsbD (8 * r + k) := by
  interval_cases r <;> simp [le32bytes, Column.bytes, hk]

@[simp] theorem le32bytes_leWord (x : Column) : le32bytes x.leWord = x :=
  Column.ext_bits fun _ _ hr hk => (le32bytes_getLsbD _ hr hk).trans (x.leWord_getLsbD hr hk)

@[simp] theorem leWord_le32bytes (w : Word) : (le32bytes w).leWord = w := by
  refine BitVec.eq_of_getLsbD_eq fun i hi => ?_
  rw [← Nat.div_add_mod i 8, Column.leWord_getLsbD _ (by omega) (by omega), le32bytes_getLsbD _ (by omega) (by omega)]

@[simp] theorem le32_bytes (x : Column) : le32 x.bytes 0 = x.leWord := rfl

/-- The first word of a byte string that begins with a column's bytes. -/
@[simp] theorem le32_bytes_append_zero (x : Column) (b : List Byte) : le32 (x.bytes ++ b) 0 = x.leWord := rfl

/-- The later words of a byte string that begins with a column's bytes. -/
@[simp] theorem le32_bytes_append_add (x : Column) (b : List Byte) (o : Nat) :
    le32 (x.bytes ++ b) (o + 4) = le32 b o := rfl

/-- Reading back the bytes of eight words gives the words (R120). -/
@[simp] theorem keyWords_keyWordBytes (w : EngineWords) : keyWords (keyWordBytes w) = w := by
  simp [keyWords, keyWordBytes]

end Sys2Proof
end

section
/-! The orthogonal form (O28, O29, O30) and the round functions on it (O31).

Bit position p of the eight words forms one byte, `sliceByte`. In PACK2 of two blocks these slices are the bytes of the
blocks (R107), and each word-level round function acts on the slices as the byte-level one acts on bytes. -/

namespace Sys2Proof

/-! ### Packing and unpacking -/

/-- Settles O29: ORTHO transposes bits, and transposing twice gives each bit back its place. -/
theorem orthoIsInvolution : Obligations.OrthoIsInvolution := by
  intro q
  refine EngineWords.ext_bits fun k i hk hi => ?_
  rw [ortho_bit _ k i hk hi, ortho_bit _ (i % 8) (i / 8 * 8 + k) (by omega) (by omega),
    show (i / 8 * 8 + k) % 8 = k by omega, show (i / 8 * 8 + k) / 8 * 8 + i % 8 = i by omega]

/-- The eight words before the transform of PACK2: the columns of lane A at the even places, of lane B at the odd ones
(R109). -/
def rawLanes (a b : Block) : EngineWords :=
  ⟨a.c0.leWord, b.c0.leWord, a.c1.leWord, b.c1.leWord, a.c2.leWord, b.c2.leWord, a.c3.leWord, b.c3.leWord⟩

theorem pack2_eq_ortho (a b : Block) : pack2 a b = ortho (rawLanes a b) := rfl

theorem ortho_pack2 (a b : Block) : ortho (pack2 a b) = rawLanes a b := by
  rw [pack2_eq_ortho, orthoIsInvolution]

@[simp] theorem unpackA_pack2 (a b : Block) : unpackA (pack2 a b) = a := by
  simp [unpackA, ortho_pack2, rawLanes]

@[simp] theorem unpackB_pack2 (a b : Block) : unpackB (pack2 a b) = b := by
  simp [unpackB, ortho_pack2, rawLanes]

theorem pack2_unpack (q : EngineWords) : pack2 (unpackA q) (unpackB q) = q := by
  have h : rawLanes (unpackA q) (unpackB q) = ortho q := by simp [rawLanes, unpackA, unpackB]
  exact (congrArg ortho h).trans (orthoIsInvolution q)

/-- Settles O30: the transform of either direction is undone by O29, and each word by its bytes. -/
theorem unpackInvertsPack : Obligations.UnpackInvertsPack :=
  ⟨fun a b => ⟨unpackA_pack2 a b, unpackB_pack2 a b⟩, pack2_unpack⟩

/-! ### Slices -/

/-- Bit k of the slice at p is bit p of word k. -/
theorem sliceByte_getLsbD (q : EngineWords) (p : Nat) {k : Nat} (hk : k < 8) :
    (sliceByte q p).getLsbD k = (q.word k).getLsbD p := by
  simp only [sliceByte, BitVec.getLsbD_append]
  interval_cases k <;> simp [EngineWords.word]

/-- Eight words are known by their slices. -/
theorem EngineWords.ext_slices {x y : EngineWords} (h : ∀ p, p < 32 → sliceByte x p = sliceByte y p) : x = y :=
  EngineWords.ext_bits fun k p hk hp => by
    rw [← sliceByte_getLsbD x p hk, h p hp, sliceByte_getLsbD y p hk]

/-- The block whose lane bit position p belongs to: A at the even positions, B at the odd ones (R107). -/
def laneAt (a b : Block) (p : Nat) : Block := if p % 2 = 0 then a else b

/-- The byte that R107 puts at bit position p: row p / 8 and column (p mod 8) / 2 of its lane. -/
def laneByte (a b : Block) (p : Nat) : Byte := (laneAt a b p).cell (p / 8) (p % 8 / 2)

/-- A function of blocks on both lanes is the function on the lane of p. -/
theorem laneAt_map (f : Block → Block) (a b : Block) (p : Nat) : laneAt (f a) (f b) p = f (laneAt a b p) :=
  (apply_ite f _ a b).symm

theorem laneAt_xor (a b x y : Block) (p : Nat) :
    laneAt (a.xor x) (b.xor y) p = (laneAt a b p).xor (laneAt x y p) :=
  (apply_ite₂ Block.xor _ a b x y).symm

/-- The columns of the two lanes before the transform, bit by bit (R109). -/
theorem rawLanes_getLsbD (a b : Block) {j r k : Nat} (hj : j < 8) (hr : r < 4) (hk : k < 8) :
    ((rawLanes a b).word j).getLsbD (8 * r + k) = ((laneAt a b j).cell r (j / 2)).getLsbD k := by
  interval_cases j <;> simp only [rawLanes, EngineWords.word, Column.leWord_getLsbD _ hr hk] <;>
    interval_cases r <;> rfl

/-- The slices of PACK2 are the bytes of the two blocks (R107). -/
theorem sliceByte_pack2 (a b : Block) {p : Nat} (hp : p < 32) : sliceByte (pack2 a b) p = laneByte a b p := by
  refine BitVec.eq_of_getLsbD_eq fun k hk => ?_
  have hlane : laneAt a b (p % 8) = laneAt a b p := by
    rw [laneAt, laneAt, show p % 8 % 2 = p % 2 by omega]
  rw [sliceByte_getLsbD _ _ hk, pack2_eq_ortho, ortho_bit _ k p hk hp, Nat.mul_comm (p / 8),
    rawLanes_getLsbD a b (by omega) (by omega) hk, hlane, laneByte]

/-- Words whose slices are the bytes of two blocks are PACK2 of the blocks. -/
theorem eq_pack2_of_slices {q : EngineWords} {a b : Block} (h : ∀ p, p < 32 → sliceByte q p = laneByte a b p) :
    q = pack2 a b :=
  EngineWords.ext_slices fun p hp => (h p hp).trans (sliceByte_pack2 a b hp).symm

/-- The byte at bit position 8r + 2c of lane A (R107). -/
theorem laneByte_even (a b : Block) {r c : Nat} (hc : c < 4) : laneByte a b (8 * r + 2 * c) = a.cell r c := by
  rw [laneByte, laneAt, if_pos (by omega), show (8 * r + 2 * c) / 8 = r by omega,
    show (8 * r + 2 * c) % 8 / 2 = c by omega]

/-- The byte at bit position 8r + 2c + 1 of lane B (R107). -/
theorem laneByte_odd (a b : Block) {r c : Nat} (hc : c < 4) : laneByte a b (8 * r + 2 * c + 1) = b.cell r c := by
  rw [laneByte, laneAt, if_neg (by omega), show (8 * r + 2 * c + 1) / 8 = r by omega,
    show (8 * r + 2 * c + 1) % 8 / 2 = c by omega]

theorem EngineWords.getD_eq_word (q : EngineWords) {k : Nat} (hk : k < 8) :
    [q.q0, q.q1, q.q2, q.q3, q.q4, q.q5, q.q6, q.q7].getD k 0 = q.word k := by
  interval_cases k <;> rfl

/-- Settles O28: bit p of word k is bit k of the slice at p. -/
theorem orthogonalLayout : Obligations.OrthogonalLayout := by
  intro a b r c k hr hc hk q w
  have hbit (p : Nat) (hp : p < 32) : w.getLsbD p = (laneByte a b p).getLsbD k := by
    rw [← sliceByte_pack2 a b hp, sliceByte_getLsbD _ p hk, ← EngineWords.getD_eq_word _ hk]
  rw [hbit _ (by omega), hbit _ (by omega), laneByte_even a b hc, laneByte_odd a b hc]
  exact ⟨rfl, rfl⟩

/-! ### The word-level round functions on the slices -/

/-- QSB is S on every slice (R111). -/
theorem sliceByte_engineSub (q : EngineWords) {p : Nat} (hp : p < 32) :
    sliceByte (engineSub q) p = sbox (sliceByte q p) := by
  refine BitVec.eq_of_getLsbD_eq fun k hk => ?_
  have hword : (engineSub q).word k = subWord q k := by interval_cases k <;> rfl
  rw [sliceByte_getLsbD _ _ hk, hword, subWord, wordOfBits_getLsbD _ _ _ (Nat.le_refl _)]
  simp [hp]

/-- The bit position from which QSR takes bit p: in row r of the words, 2r places on, cyclically (R112). -/
def rotatedPos (p : Nat) : Nat := p / 8 * 8 + (p + 2 * (p / 8)) % 8

theorem shiftRowsWord_getLsbD (w : Word) {p : Nat} (hp : p < 32) :
    (shiftRowsWord w).getLsbD p = w.getLsbD (rotatedPos p) := by
  simp only [shiftRowsWord, rotatedPos, BitVec.getLsbD_or, BitVec.getLsbD_and, BitVec.getLsbD_ushiftRight,
    BitVec.getLsbD_shiftLeft]
  interval_cases p <;> simp

/-- QSR moves the slices within their rows (R112). -/
theorem sliceByte_engineShiftRows (q : EngineWords) {p : Nat} (hp : p < 32) :
    sliceByte (engineShiftRows q) p = sliceByte q (rotatedPos p) := by
  refine BitVec.eq_of_getLsbD_eq fun k hk => ?_
  have hword : (engineShiftRows q).word k = shiftRowsWord (q.word k) := by interval_cases k <;> rfl
  rw [sliceByte_getLsbD _ _ hk, sliceByte_getLsbD _ _ hk, hword, shiftRowsWord_getLsbD _ hp]

theorem rotr32_getLsbD (w : Word) {n i : Nat} (hn : n ≤ 32) (hi : i < 32) :
    (rotr32 w n).getLsbD i = w.getLsbD ((i + n) % 32) := by
  rw [rotr32, BitVec.getLsbD_or, BitVec.getLsbD_ushiftRight, BitVec.getLsbD_shiftLeft]
  rcases Nat.lt_or_ge (i + n) 32 with h | h
  · rw [Nat.mod_eq_of_lt h, Nat.add_comm n i]
    simp [show i < 32 - n by omega]
  · rw [BitVec.getLsbD_of_ge _ _ (by omega)]
    simp [show ¬ i < 32 - n by omega, show (i + n) % 32 = i - (32 - n) by omega, hi]

theorem rotr32_xor (x y : Word) {n : Nat} (hn : n ≤ 32) : rotr32 (x ^^^ y) n = rotr32 x n ^^^ rotr32 y n := by
  refine BitVec.eq_of_getLsbD_eq fun i hi => ?_
  simp only [BitVec.getLsbD_xor, rotr32_getLsbD _ hn hi]

/-- The words whose slices are `2·x`: each word moves one place up, and the top word is added at the places of 0x1B
(R104). -/
def doubleWords (q : EngineWords) : EngineWords :=
  ⟨q.q7, q.q0 ^^^ q.q7, q.q1, q.q2 ^^^ q.q7, q.q3 ^^^ q.q7, q.q4, q.q5, q.q6⟩

theorem sliceByte_doubleWords (q : EngineWords) (p : Nat) :
    sliceByte (doubleWords q) p = xtime (sliceByte q p) := by
  refine BitVec.eq_of_getLsbD_eq fun k hk => ?_
  rw [sliceByte_getLsbD _ _ hk, xtime, BitVec.getLsbD_xor, BitVec.getLsbD_shiftLeft,
    sliceByte_getLsbD q p (show 7 < 8 by decide), sliceByte_getLsbD q p (show k - 1 < 8 by omega)]
  cases h7 : (q.word 7).getLsbD p <;> interval_cases k <;> simp_all [doubleWords, EngineWords.word]

/-- QMC as one formula for every word, in terms of the doubled words (R113). -/
theorem engineMixColumns_word (q : EngineWords) {k : Nat} (hk : k < 8) :
    (engineMixColumns q).word k = (doubleWords q).word k ^^^ rotr32 ((doubleWords q).word k ^^^ q.word k) 8 ^^^
      rotr32 (q.word k ^^^ rotr32 (q.word k) 8) 16 := by
  have h8 (x y : Word) : rotr32 (x ^^^ y) 8 = rotr32 x 8 ^^^ rotr32 y 8 := rotr32_xor x y (by decide)
  interval_cases k <;> simp only [engineMixColumns, doubleWords, EngineWords.word, h8] <;> ac_rfl

/-- QMC mixes the slice at p with those one, two and three rows below it (R113). -/
theorem sliceByte_engineMixColumns (q : EngineWords) {p : Nat} (hp : p < 32) :
    sliceByte (engineMixColumns q) p = mixBytes (sliceByte q p) (sliceByte q ((p + 8) % 32))
      (sliceByte q ((p + 16) % 32)) (sliceByte q ((p + 24) % 32)) := by
  refine BitVec.eq_of_getLsbD_eq fun k hk => ?_
  have h8 (w : Word) : (rotr32 w 8).getLsbD p = w.getLsbD ((p + 8) % 32) := rotr32_getLsbD w (by decide) hp
  have h16 (w : Word) : (rotr32 w 16).getLsbD p = w.getLsbD ((p + 16) % 32) := rotr32_getLsbD w (by decide) hp
  have h24 (w : Word) : (rotr32 w 8).getLsbD ((p + 16) % 32) = w.getLsbD ((p + 24) % 32) := by
    rw [rotr32_getLsbD w (by decide) (by omega), show ((p + 16) % 32 + 8) % 32 = (p + 24) % 32 by omega]
  simp only [mixBytes, triple, ← sliceByte_doubleWords, BitVec.getLsbD_xor, sliceByte_getLsbD _ _ hk,
    engineMixColumns_word q hk, h8, h16, h24, Bool.xor_assoc]

theorem sliceByte_xor (x y : EngineWords) (p : Nat) : sliceByte (x.xor y) p = sliceByte x p ^^^ sliceByte y p := by
  refine BitVec.eq_of_getLsbD_eq fun k hk => ?_
  have hword : (x.xor y).word k = x.word k ^^^ y.word k := by interval_cases k <;> rfl
  rw [BitVec.getLsbD_xor, sliceByte_getLsbD _ _ hk, sliceByte_getLsbD _ _ hk, sliceByte_getLsbD _ _ hk, hword,
    BitVec.getLsbD_xor]

/-! ### The word-level round functions on two packed blocks -/

theorem engineSub_pack2 (a b : Block) : engineSub (pack2 a b) = pack2 (subBytes a) (subBytes b) :=
  eq_pack2_of_slices fun p hp => by
    rw [sliceByte_engineSub _ hp, sliceByte_pack2 _ _ hp, laneByte, laneByte, laneAt_map,
      subBytes_cell _ (by omega) (by omega)]

theorem engineShiftRows_pack2 (a b : Block) : engineShiftRows (pack2 a b) = pack2 (shiftRows a) (shiftRows b) :=
  eq_pack2_of_slices fun p hp => by
    have hlt : rotatedPos p < 32 := by rw [rotatedPos]; omega
    have hrow : rotatedPos p / 8 = p / 8 := by rw [rotatedPos]; omega
    have hcol : rotatedPos p % 8 / 2 = (p % 8 / 2 + p / 8) % 4 := by rw [rotatedPos]; omega
    have hlane : laneAt a b (rotatedPos p) = laneAt a b p := by
      rw [laneAt, laneAt, show rotatedPos p % 2 = p % 2 by rw [rotatedPos]; omega]
    rw [sliceByte_engineShiftRows _ hp, sliceByte_pack2 _ _ hlt, laneByte, laneByte, laneAt_map,
      shiftRows_cell _ (by omega) (by omega), hlane, hrow, hcol]

/-- The byte n rows below position p, in the same lane and column. -/
theorem laneByte_row_below (a b : Block) (p n : Nat) :
    laneByte a b ((p + 8 * n) % 32) = (laneAt a b p).cell ((p / 8 + n) % 4) (p % 8 / 2) := by
  rw [laneByte, laneAt, laneAt, show (p + 8 * n) % 32 % 2 = p % 2 by omega,
    show (p + 8 * n) % 32 / 8 = (p / 8 + n) % 4 by omega, show (p + 8 * n) % 32 % 8 / 2 = p % 8 / 2 by omega]

theorem engineMixColumns_pack2 (a b : Block) : engineMixColumns (pack2 a b) = pack2 (mixColumns a) (mixColumns b) :=
  eq_pack2_of_slices fun p hp => by
    have hbelow (n : Nat) : sliceByte (pack2 a b) ((p + 8 * n) % 32) =
        (laneAt a b p).cell ((p / 8 + n) % 4) (p % 8 / 2) :=
      (sliceByte_pack2 _ _ (Nat.mod_lt _ (by decide))).trans (laneByte_row_below a b p n)
    rw [sliceByte_engineMixColumns _ hp, sliceByte_pack2 _ _ hp, hbelow 1, hbelow 2, hbelow 3, laneByte, laneByte,
      laneAt_map, mixColumns_cell _ (by omega) (by omega)]

theorem xor_pack2 (a b ka kb : Block) :
    (pack2 a b).xor (pack2 ka kb) = pack2 (addRoundKey a ka) (addRoundKey b kb) :=
  eq_pack2_of_slices fun p hp => by
    rw [sliceByte_xor, sliceByte_pack2 _ _ hp, sliceByte_pack2 _ _ hp, laneByte, laneByte, laneByte, addRoundKey,
      addRoundKey, laneAt_xor, Block.xor_cell _ _ (by omega) (by omega)]

/-- Settles O31, one round function at a time. -/
theorem engineActsOnLanes : Obligations.EngineActsOnLanes := fun a b =>
  ⟨engineSub_pack2 a b, engineShiftRows_pack2 a b, engineMixColumns_pack2 a b, xor_pack2 a b⟩

/-- One round of the engine is one round of the cipher in each lane (R124). -/
theorem engineRound_pack2 (a b k k' : Block) :
    engineRound (pack2 a b) (pack2 k k') = pack2 (cipherRound a k) (cipherRound b k') := by
  rw [engineRound, engineSub_pack2, engineShiftRows_pack2, engineMixColumns_pack2, xor_pack2]
  rfl

end Sys2Proof
end

section
/-! The engine commands (O33 to O38), and one round through them (O39). -/

namespace Sys2Proof.Machine

open Sys2Proof.Statements

section
variable {i : Instr} {s : State} {p : Word} {n : Nat}

/-- A command of the engine whose region lies in M makes its effect. -/
theorem exec_of_region_inside (hi : isEngine i = true) (hr : s.commandError i = s.regionError ⟨p, n⟩)
    (hfits : p.toNat + n ≤ s.cfg.memSize) :
    exec i s = .next ((s.applyEffect (s.commandEffect i)).finish (s.commandEffect i).code) := by
  have hin : Region.inRange s.cfg ⟨p, n⟩ = true := (Region.inRange_iff _ _).2 (.inr hfits)
  have hnone : s.commandError i = none := by simp [hr, State.regionError, State.outOfRange, hin]
  rw [exec_eq, State.afterCommand_of_none hnone, State.endCommand_of_engine _ _ hi]

/-- A command of the engine whose region does not lie in M ends with RANGE and changes nothing else. -/
theorem exec_of_region_outside (hi : isEngine i = true) (hr : s.commandError i = s.regionError ⟨p, n⟩)
    (hn : n ≠ 0) (hout : ¬ p.toNat + n ≤ s.cfg.memSize) : exec i s = .next (s.finish .range) := by
  have hin : Region.inRange s.cfg ⟨p, n⟩ ≠ true := by simp [Region.inRange_iff, hn, hout]
  have hrange : s.commandError i = some .range := by simp [hr, State.regionError, State.outOfRange, hin]
  rw [exec_eq, State.afterCommand_of_error hrange, State.endCommand_of_engine _ _ hi]

/-- The meaning of a command of the engine with a region of M. -/
theorem exec_of_region (hi : isEngine i = true) (hr : s.commandError i = s.regionError ⟨p, n⟩) (hn : n ≠ 0) :
    exec i s = .next (if p.toNat + n ≤ s.cfg.memSize then
      (s.applyEffect (s.commandEffect i)).finish (s.commandEffect i).code else s.finish .range) := by
  split
  next hfits => exact exec_of_region_inside hi hr hfits
  next hout => exact exec_of_region_outside hi hr hn hout

end

/-- Settles O33: the range check, then PACK1 of the block at SRC_PTR. -/
theorem qLoad1Result : Obligations.QLoad1Result :=
  ⟨fun s => exec_of_region rfl rfl (by decide), decodeWord_encode .qLoad1, by decide⟩

/-- Settles O34: the range check, then PACK2 of the two blocks at SRC_PTR. -/
theorem qLoad2Result : Obligations.QLoad2Result :=
  ⟨fun s => exec_of_region rfl rfl (by decide), decodeWord_encode .qLoad2, by decide⟩

/-- Settles O35: the range check, then lane A to DST_PTR; PACK1 is undone in lane A (O30). -/
theorem qStore1Result : Obligations.QStore1Result :=
  ⟨fun s => exec_of_region rfl rfl (by decide), decodeWord_encode .qStore1,
    fun a => unpackA_pack2 a zeroBlock⟩

/-- Settles O36: the two lanes written one after the other are their bytes written at once. -/
theorem qStore2Result : Obligations.QStore2Result := by
  refine ⟨fun s => ?_, decodeWord_encode .qStore2, fun a => ⟨unpackA_pack2 a zeroBlock, unpackB_pack2 a zeroBlock⟩,
    unpackInvertsPack.1⟩
  have hboth := s.mem.writeBytes_append s.regs.dstPtr.toNat (unpackA s.q).bytes (unpackB s.q).bytes
  rw [Block.bytes_length] at hboth
  rw [← hboth]
  exact exec_of_region rfl rfl (by decide)

/-- Settles O37; ORTHO is an involution (O29). -/
theorem qInPlaceResults : Obligations.QInPlaceResults := by
  refine ⟨exec_eq .qOrtho, exec_eq .qSub, exec_eq .qSr, exec_eq .qMc, fun s t u ht hu => ?_⟩
  cases ht
  cases hu
  exact orthoIsInvolution s.q

/-- Settles O38: the range check, then the eight words at AUX_PTR. -/
theorem qAddrkResult : Obligations.QAddrkResult :=
  ⟨fun s => exec_of_region rfl rfl (by decide), decodeWord_encode .qAddrk, fun _ _ => rfl⟩

/-- Settles O39: the four commands make one round of the engine (O37, O38), which is a round in each lane. -/
theorem engineRoundComposition : Obligations.EngineRoundComposition := by
  intro s a b k k' hq hfits hkey
  obtain ⟨-, hsub, hsr, hmc, -⟩ := qInPlaceResults
  have hround : engineRound s.q (keyWords (s.mem.readBytes s.regs.auxPtr.toNat 32)) =
      pack2 (cipherRound a k) (cipherRound b k') := by
    rw [hq, hkey, keyWords_keyWordBytes, engineRound_pack2]
  refine ⟨_, _, _, _, hsub s, hsr _, hmc _, exec_of_region_inside rfl rfl hfits, ?_, ?_, rfl, rfl⟩
  · exact (congrArg unpackA hround).trans (unpackA_pack2 _ _)
  · exact (congrArg unpackB hround).trans (unpackB_pack2 _ _)

end Sys2Proof.Machine
end

section
/-! The TWEAKEY schedule: DeriveK and DeriveSTK in closed form (O23, O24), the permutation H (O21) and the LFSRs (O22).

Both loops step their lanes once for each entry, so entry i holds the lanes after i steps. -/

namespace Sys2Proof

open Sys2Proof.Statements

/-! ### A function applied n times -/

theorem times_eq_iterate (f : Block → Block) (n : Nat) (x : Block) : times f n x = f^[n] x := by
  induction n with
  | zero => rfl
  | succ n ih => rw [times, ih, Function.iterate_succ_apply']

/-- The step that a loop makes first can be counted as its last one. -/
theorem times_apply (f : Block → Block) (n : Nat) (x : Block) : times f n (f x) = times f (n + 1) x := by
  rw [times_eq_iterate, times_eq_iterate, Function.iterate_succ_apply]

theorem times_add (f : Block → Block) (m n : Nat) (x : Block) : times f (m + n) x = times f m (times f n x) := by
  rw [times_eq_iterate, times_eq_iterate, times_eq_iterate, Function.iterate_add_apply]

/-! ### The two loops -/

/-- Entry i of the loop of DeriveK: both lanes after i steps, and the round constant i (41_tweakey.md R145). -/
theorem deriveKFrom_getElem (cs : List Byte) (tk2 tk3 : Block) (i : Nat) (hi : i < cs.length) :
    (deriveKFrom cs tk2 tk3)[i]'(by rwa [deriveKFrom_length]) =
      ((times (fun t => permuteH (lfsr2 t)) i tk2).xor
        (times (fun t => permuteH (lfsr3 t)) i tk3)).xor (roundConstant cs[i]) := by
  induction cs generalizing tk2 tk3 i with
  | nil => cases hi
  | cons c cs ih =>
    cases i with
    | zero => rfl
    | succ i =>
      rw [← times_apply _ i tk2, ← times_apply _ i tk3]
      exact ih _ _ i (Nat.lt_of_succ_lt_succ hi)

/-- Settles O23: entry i of the loop, over the table rcon. -/
theorem derivedKeyClosedForm : Obligations.DerivedKeyClosedForm := by
  intro key i hi
  rw [List.getD_eq_getElem rcon 0 hi]
  exact deriveKFrom_getElem rcon (blockAt key 16) (blockAt key 0) i hi

/-- Entry i of the loop of DeriveSTK: the round key i and the tweak after i steps (R146). -/
theorem deriveSTKFrom_getElem? (ds : List Block) (t : Block) (i : Nat) (hi : i < ds.length) :
    (deriveSTKFrom ds t)[i]? = some (ds[i].xor (times permuteH i t)) := by
  induction ds generalizing t i with
  | nil => cases hi
  | cons d ds ih =>
    cases i with
    | zero => rfl
    | succ i =>
      rw [← times_apply]
      exact ih _ i (Nat.lt_of_succ_lt_succ hi)

theorem deriveSTK_getElem? (dk : Vector Block 17) (t : Block) {i : Nat} (hi : i < 17) :
    (deriveSTK dk t)[i]? = some (dk[i].xor (times permuteH i t)) := by
  rw [deriveSTK, deriveSTKFrom_getElem? dk.toList t i (by simpa using hi), Vector.getElem_toList]

/-! ### The permutation H -/

/-- H has order 8 (R141). -/
theorem times_permuteH_eight (t : Block) : times permuteH 8 t = t := rfl

/-- Settles O24: STK[i] and DK[i] differ by the tweak after i steps of H, and eight steps of H change nothing. -/
theorem subTweakKeysClosedForm : Obligations.SubTweakKeysClosedForm := by
  intro dk t
  refine ⟨deriveSTK_length dk t, fun i hi => deriveSTK_getElem? dk t hi, fun i hi => ?_⟩
  refine ⟨_, _, deriveSTK_getElem? dk t (by omega), deriveSTK_getElem? dk t (by omega), ?_⟩
  rw [Block.xor_comm dk[i], Block.xor_comm dk[i + 8], Block.xor_xor_cancel, Block.xor_xor_cancel, times_add,
    times_permuteH_eight]

/-- The block of the bytes 0 to 15 first returns under H after eight steps: its period divides eight, and four steps
still move it. -/
theorem minimalPeriod_permuteH : Function.minimalPeriod permuteH (countBlock 0) = 2 ^ 3 := by
  refine Function.minimalPeriod_eq_prime_pow ?_ ?_
  · rw [Function.IsPeriodicPt, Function.IsFixedPt, ← times_eq_iterate]
    decide
  · rw [Function.IsPeriodicPt, Function.IsFixedPt, ← times_eq_iterate]
    exact times_permuteH_eight _

/-- Settles O21; each byte of H(t) is a case of the table h. -/
theorem permutationHasOrderEight : Obligations.PermutationHasOrderEight := by
  refine ⟨fun t i hi => ?_, times_permuteH_eight, rfl, rfl, fun n hpos hlt => ⟨countBlock 0, ?_⟩⟩
  · interval_cases i <;> rfl
  · rw [times_eq_iterate]
    exact Function.not_isPeriodicPt_of_pos_of_lt_minimalPeriod hpos.ne' (minimalPeriod_permuteH ▸ hlt)

/-! ### The LFSRs -/

/-- LFSR2 moves every bit one place up and feeds x7 ⊕ x5 into bit 0 (R142). -/
theorem lfsr2Byte_getLsbD (x : Byte) {k : Nat} (hk : k < 8) :
    (lfsr2Byte x).getLsbD k = if k = 0 then x.getLsbD 7 ^^ x.getLsbD 5 else x.getLsbD (k - 1) := by
  interval_cases k <;> simp [lfsr2Byte]

/-- LFSR3 moves every bit one place down and feeds x0 ⊕ x6 into bit 7 (R143). -/
theorem lfsr3Byte_getLsbD (x : Byte) {k : Nat} (hk : k < 8) :
    (lfsr3Byte x).getLsbD k = if k = 7 then x.getLsbD 0 ^^ x.getLsbD 6 else x.getLsbD (k + 1) := by
  interval_cases k <;> simp [lfsr3Byte]

/-- The bit that LFSR2 has dropped is what LFSR3 feeds back: (x7 ⊕ x5) ⊕ x5. -/
theorem lfsr3Byte_lfsr2Byte (x : Byte) : lfsr3Byte (lfsr2Byte x) = x := by
  refine BitVec.eq_of_getLsbD_eq fun k hk => ?_
  rw [lfsr3Byte_getLsbD _ hk]
  split
  next h7 =>
    rw [lfsr2Byte_getLsbD x (by decide), lfsr2Byte_getLsbD x (by decide), h7]
    simp
  next h7 => simp [lfsr2Byte_getLsbD x (show k + 1 < 8 by omega)]

/-- The bit that LFSR3 has dropped is what LFSR2 feeds back: (x0 ⊕ x6) ⊕ x6. -/
theorem lfsr2Byte_lfsr3Byte (x : Byte) : lfsr2Byte (lfsr3Byte x) = x := by
  refine BitVec.eq_of_getLsbD_eq fun k hk => ?_
  rw [lfsr2Byte_getLsbD _ hk]
  split
  next h0 =>
    rw [lfsr3Byte_getLsbD x (by decide), lfsr3Byte_getLsbD x (by decide), h0]
    simp
  next h0 =>
    rw [lfsr3Byte_getLsbD x (show k - 1 < 8 by omega), if_neg (by omega), show k - 1 + 1 = k by omega]

/-- Settles O22: the bits of each map, and what each feeds back. -/
theorem lfsrsAreInverse : Obligations.LfsrsAreInverse :=
  ⟨fun x _ hk => lfsr2Byte_getLsbD x hk, fun x _ hk => lfsr3Byte_getLsbD x hk,
    fun x => ⟨lfsr3Byte_lfsr2Byte x, lfsr2Byte_lfsr3Byte x⟩⟩

end Sys2Proof
end

section
/-! KEY_SETUP (O20). -/

namespace Sys2Proof.Machine

open Sys2Proof.Statements

theorem State.keyRegion_inRange_iff (s : State) :
    s.keyRegion.inRange s.cfg = true ↔ s.regs.keyPtr.toNat + 32 ≤ s.cfg.memSize := by
  simp [Region.inRange_iff, State.keyRegion]

/-- The error that KEY_SETUP's checks report when one applies (60_exceptions.md R242). -/
theorem State.keyError_eq_some {s : State}
    (h : ¬ (s.regs.keyLen = 32 ∧ s.regs.keyPtr.toNat + 32 ≤ s.cfg.memSize)) :
    s.keyError = some (if s.regs.keyLen = 32 then .range else .keySize) := by
  rw [← s.keyRegion_inRange_iff] at h
  by_cases hlen : s.regs.keyLen = 32
  · have hrange : s.keyRegion.inRange s.cfg = false := by simpa [hlen] using h
    simp [State.keyError, State.outOfRange, hlen, hrange]
  · rw [State.keyError, firstError_cons, if_pos (bne_iff_ne.2 hlen), if_neg hlen]

theorem Variant.ofBit_eq_ite (v : Bool) : Variant.ofBit v = if v then .fast else .constantTime := by cases v <;> rfl

/-- Settles O20, by whether KEY_SETUP's checks pass; Q and the draws are those of its end. -/
theorem keySetupResult : Obligations.KeySetupResult := by
  refine ⟨fun s v => ⟨s.drawQ.q, s.draws + 8, ?_⟩, decodeWord_encode (.keySetup false),
    decodeWord_encode (.keySetup true), by decide, by decide⟩
  rw [exec_eq, ← Variant.ofBit_eq_ite]
  split
  next h =>
    have hnone : s.commandError (.keySetup v) = none :=
      s.keyError_eq_none.2 (h.imp_right s.keyRegion_inRange_iff.2)
    rw [State.afterCommand_of_none hnone, State.endCommand_of_keyed _ _ rfl]
    rfl
  next h =>
    have herr : s.commandError (.keySetup v) = _ := State.keyError_eq_some h
    rw [State.afterCommand_of_error herr, State.endCommand_of_keyed _ _ rfl]
    rfl

end Sys2Proof.Machine
end

section
/-! VARIANT changes no result of a command (O18): no check, effect or end of a command reads it. -/

namespace Sys2Proof.Machine

/-- The state with the other datapath selected. -/
def State.withVariant (s : State) (v : Variant) : State := { s with variant := v }

section
variable (s : State) (v : Variant) (i : Instr)

theorem State.commandError_withVariant : (s.withVariant v).commandError i = s.commandError i := by
  cases i <;> rfl

theorem State.commandEffect_withVariant : (s.withVariant v).commandEffect i = s.commandEffect i := by
  cases i <;> rfl

theorem State.endCommand_withVariant (c : ErrCode) :
    (s.withVariant v).endCommand i c = (s.endCommand i c).withVariant v := by
  rw [State.endCommand, State.endCommand]
  split <;> rfl

/-- A new key replaces VARIANT, and any other effect carries it along. -/
theorem State.applyEffect_withVariant (e : Effect) :
    ∃ v', (s.withVariant v).applyEffect e = (s.applyEffect e).withVariant v' := by
  cases e with
  | key dk w => exact ⟨w, rfl⟩
  | bytes out c => exact ⟨v, rfl⟩
  | words w => exact ⟨v, rfl⟩

theorem State.afterCommand_withVariant :
    ∃ v', (s.withVariant v).afterCommand i = (s.afterCommand i).withVariant v' := by
  cases h : s.commandError i with
  | some e =>
    rw [State.afterCommand_of_error h, State.afterCommand_of_error ((s.commandError_withVariant v i).trans h)]
    exact ⟨v, s.endCommand_withVariant v i e⟩
  | none =>
    obtain ⟨v', hv'⟩ := s.applyEffect_withVariant v (s.commandEffect i)
    rw [State.afterCommand_of_none h, State.afterCommand_of_none ((s.commandError_withVariant v i).trans h),
      s.commandEffect_withVariant v i, hv']
    exact ⟨v', State.endCommand_withVariant _ v' i _⟩

end

/-- Settles O18: the two runs of a command end in states that differ in VARIANT alone. -/
theorem variantChangesNoResult : Obligations.VariantChangesNoResult := by
  intro i s t v ht
  obtain ⟨v', hv'⟩ := s.afterCommand_withVariant v i
  refine ⟨_, exec_eq i (s.withVariant v), ?_⟩
  rw [eq_afterCommand_of_exec ht, hv']
  rfl

end Sys2Proof.Machine
end

section
/-! E is a permutation of the blocks (O27): every step of a round has an inverse (42_cipher.md R170). -/

namespace Sys2Proof

/-! ### The substitution -/

/-- The inverse of an inverse in GF(2^8) is the byte itself. -/
theorem sboxInverse_sboxInverse : ∀ x : Byte, sboxInverse (sboxInverse x) = x := by decide

/-- The inverse of the S-box: the affine map undone, then the inverse in GF(2^8). -/
def sboxUndo (y : Byte) : Byte := sboxInverse (sboxLinearInverse (y ^^^ 0x63))

theorem sboxUndo_sbox (x : Byte) : sboxUndo (sbox x) = x := sboxInverse_sboxInverse x

theorem sbox_sboxUndo (y : Byte) : sbox (sboxUndo y) = y := by
  rw [← sboxAffine_sboxInverse, sboxUndo, sboxInverse_sboxInverse, sboxAffine_sboxLinearInverse, BitVec.xor_assoc,
    BitVec.xor_self, BitVec.xor_zero]

/-- A byte function with an inverse has one when applied to every byte of a block. -/
theorem Block.map_leftInverse {f g : Byte → Byte} (h : Function.LeftInverse g f) :
    Function.LeftInverse (Block.map g) (Block.map f) := fun x => by
  simp only [Block.map, Column.map, h _]

theorem subBytes_bijective : Function.Bijective subBytes :=
  Function.bijective_iff_has_inverse.2
    ⟨Block.map sboxUndo, Block.map_leftInverse sboxUndo_sbox, Block.map_leftInverse sbox_sboxUndo⟩

/-! ### The row shift -/

/-- Four row shifts turn every row once around. -/
theorem shiftRows_bijective : Function.Bijective shiftRows :=
  Function.bijective_iff_has_inverse.2 ⟨fun x => shiftRows (shiftRows (shiftRows x)), fun _ => rfl, fun _ => rfl⟩

/-! ### The column mix -/

theorem byte_xor_left_comm (x y z : Byte) : x ^^^ (y ^^^ z) = y ^^^ (x ^^^ z) := by
  rw [← BitVec.xor_assoc, BitVec.xor_comm x, BitVec.xor_assoc]

theorem byte_xor_cancel_left (x y : Byte) : x ^^^ (x ^^^ y) = y := by
  rw [← BitVec.xor_assoc, BitVec.xor_self, BitVec.zero_xor]

theorem xtime_xor (x y : Byte) : xtime (x ^^^ y) = xtime x ^^^ xtime y := by
  rw [xtime, xtime, xtime, BitVec.shiftLeft_xor_distrib, BitVec.getLsbD_xor]
  cases x.getLsbD 7 <;> cases y.getLsbD 7 <;>
    simp [BitVec.xor_assoc, BitVec.xor_comm 27#8]

/-- The first row of the squared matrix of R104: circ(2, 3, 1, 1) squared is circ(5, 0, 4, 0). -/
theorem mixBytes_mixBytes (x0 x1 x2 x3 : Byte) :
    mixBytes (mixBytes x0 x1 x2 x3) (mixBytes x1 x2 x3 x0) (mixBytes x2 x3 x0 x1) (mixBytes x3 x0 x1 x2) =
      xtime (xtime (x0 ^^^ x2)) ^^^ x0 := by
  simp only [mixBytes, triple, xtime_xor, BitVec.xor_assoc, BitVec.xor_comm, byte_xor_left_comm,
    byte_xor_cancel_left]

/-- The bytes of a column after two column mixes. -/
theorem mixColumn_mixColumn (x : Column) :
    mixColumn (mixColumn x) =
      ⟨xtime (xtime (x.a0 ^^^ x.a2)) ^^^ x.a0, xtime (xtime (x.a1 ^^^ x.a3)) ^^^ x.a1,
       xtime (xtime (x.a2 ^^^ x.a0)) ^^^ x.a2, xtime (xtime (x.a3 ^^^ x.a1)) ^^^ x.a3⟩ := by
  simp only [mixColumn_eq_mixBytes, mixBytes_mixBytes]

/-- Two column mixes leave the sum of two bytes that stand two rows apart. -/
theorem xtime_xtime_xor_xor (x y : Byte) :
    (xtime (xtime (x ^^^ y)) ^^^ x) ^^^ (xtime (xtime (y ^^^ x)) ^^^ y) = x ^^^ y := by
  rw [BitVec.xor_comm y x, BitVec.xor_assoc, byte_xor_left_comm x, byte_xor_cancel_left]

/-- Four column mixes change nothing: the second two add to each byte what the first two have added. -/
theorem mixColumn_four_times (x : Column) : mixColumn (mixColumn (mixColumn (mixColumn x))) = x := by
  rw [mixColumn_mixColumn (mixColumn (mixColumn x)), mixColumn_mixColumn x]
  simp only [xtime_xtime_xor_xor, byte_xor_cancel_left]

theorem mixColumns_four_times (x : Block) : mixColumns (mixColumns (mixColumns (mixColumns x))) = x := by
  simp only [mixColumns, mixColumn_four_times]

theorem mixColumns_bijective : Function.Bijective mixColumns :=
  Function.bijective_iff_has_inverse.2
    ⟨fun x => mixColumns (mixColumns (mixColumns x)), mixColumns_four_times, mixColumns_four_times⟩

/-! ### The round and the cipher -/

/-- Adding a round key twice changes nothing. -/
theorem addRoundKey_bijective (k : Block) : Function.Bijective (addRoundKey · k) :=
  Function.Involutive.bijective fun x => Block.xor_xor_cancel x k

theorem cipherRound_bijective (k : Block) : Function.Bijective (cipherRound · k) :=
  (addRoundKey_bijective k).comp (mixColumns_bijective.comp (shiftRows_bijective.comp subBytes_bijective))

theorem foldl_cipherRound_bijective (ks : List Block) :
    Function.Bijective fun p => ks.foldl cipherRound p := by
  induction ks with
  | nil => exact Function.bijective_id
  | cons k ks ih => exact ih.comp (cipherRound_bijective k)

theorem encryptWith_bijective (ks : List Block) : Function.Bijective (encryptWith ks) := by
  cases ks with
  | nil => exact Function.bijective_id
  | cons k ks => exact (foldl_cipherRound_bijective ks).comp (addRoundKey_bijective k)

/-- Settles O27: E is the cipher with the round keys of the tweak. -/
theorem cipherIsPermutation : Obligations.CipherIsPermutation :=
  fun dk t => encryptWith_bijective (deriveSTK dk t)

end Sys2Proof
end

section
/-! The bit-sliced datapath (O32): the engine's rounds on two packed blocks are the rounds of the cipher in each lane. -/

namespace Sys2Proof

/-- The rounds under packed keys, by induction on the two lists of round keys. -/
theorem foldl_engineRound_pack2 {ks ks' : List Block} (h : ks.length = ks'.length) (a b : Block) :
    (List.zipWith pack2 ks ks').foldl engineRound (pack2 a b) =
      pack2 (ks.foldl cipherRound a) (ks'.foldl cipherRound b) := by
  induction ks generalizing ks' a b with
  | nil =>
    cases ks' with
    | nil => rfl
    | cons k' ks' => cases h
  | cons k ks ih =>
    cases ks' with
    | nil => cases h
    | cons k' ks' =>
      rw [List.zipWith_cons_cons, List.foldl_cons, engineRound_pack2, ih (Nat.succ.inj h)]
      rfl

theorem engineEncryptWith_pack2 {ks ks' : List Block} (h : ks.length = ks'.length) (a b : Block) :
    engineEncryptWith (List.zipWith pack2 ks ks') (pack2 a b) = pack2 (encryptWith ks a) (encryptWith ks' b) := by
  cases ks with
  | nil =>
    cases ks' with
    | nil => rfl
    | cons k' ks' => cases h
  | cons k ks =>
    cases ks' with
    | nil => cases h
    | cons k' ks' =>
      rw [List.zipWith_cons_cons, engineEncryptWith, xor_pack2, foldl_engineRound_pack2 (Nat.succ.inj h)]
      rfl

/-- Settles O32: both tweaks give seventeen round keys, and unpacking inverts packing (O30). -/
theorem bitslicedDatapathComputesE : Obligations.BitslicedDatapathComputesE := by
  intro dk t0 t1 a b
  have hlen : (deriveSTK dk t0).length = (deriveSTK dk t1).length := by simp
  rw [bitslicedPair, engineEncryptWith_pack2 hlen, unpackA_pack2, unpackB_pack2]
  rfl

end Sys2Proof
end

section
/-! SUPPORT. The block at an address after a write, and a second write over the first. -/

namespace Sys2Proof.Machine

theorem Memory.readBlock_writeBytes_same (m : Memory) (a : Nat) (x : Block) :
    (m.writeBytes a x.bytes).readBlock a = x := by
  rw [Memory.readBlock, ← x.bytes_length, Memory.readBytes_writeBytes_same, blockAt_bytes]

theorem Memory.readBlock_writeBytes_apart (m : Memory) (a : Nat) (v : List Byte) (b : Nat)
    (h : b + 16 ≤ a ∨ a + v.length ≤ b) : (m.writeBytes a v).readBlock b = m.readBlock b := by
  rw [Memory.readBlock, Memory.readBlock, Memory.readBytes_writeBytes_apart _ _ _ _ _ h]

/-- A byte string written over another of the same length leaves nothing of the first. -/
theorem Memory.writeBytes_over {size n : Nat} {m : Memory} (h : m.wf size) {a : Nat} {v w : List Byte}
    (hv : v.length = n) (hw : w.length = n) (ha : a + n ≤ size) :
    (m.writeBytes a v).writeBytes a w = m.writeBytes a w := by
  have hwf : (m.writeBytes a w).wf size := Memory.wf_writeBytes h (.inr (by omega))
  have hwf' : ((m.writeBytes a v).writeBytes a w).wf size :=
    Memory.wf_writeBytes (Memory.wf_writeBytes h (.inr (by omega))) (.inr (by omega))
  refine Memory.ext_of_wf hwf' hwf fun b => ?_
  by_cases hb : b < a ∨ a + n ≤ b
  · rw [Memory.read_writeBytes_outside _ _ _ (by omega), Memory.read_writeBytes_outside _ _ _ (by omega),
      Memory.read_writeBytes_outside _ _ _ (by omega)]
  · obtain ⟨i, rfl⟩ := Nat.exists_eq_add_of_le (show a ≤ b by omega)
    rw [Memory.read_writeBytes_inside _ _ _ i (by omega), Memory.read_writeBytes_inside _ _ _ i (by omega)]

end Sys2Proof.Machine
end

section
/-! The block-cipher commands (O40 to O43), and BC_TAG2 as two BC_TAG1 (O44). -/

namespace Sys2Proof.Machine

open Sys2Proof.Statements

section
variable {i : Instr} {s : State} {t b o : Nat}

/-- The range check of a BC_* command's three regions in arithmetic (20_memory.md R55). -/
theorem State.cipherError_eq_none_iff_fits (s : State) (t b o : Nat) :
    s.cipherError t b o = none ↔
      s.keyValid = true ∧ Fits s s.regs.auxPtr t ∧ Fits s s.regs.srcPtr b ∧ Fits s s.regs.dstPtr o := by
  simp only [State.cipherError_eq_none, Region.inRange_iff, State.auxRegion, State.srcRegion, State.dstRegion, Fits]

theorem State.cipherError_of_noKey (hk : s.keyValid = false) : s.cipherError t b o = some .noKey := by
  simp [State.cipherError, hk]

/-- With a key, the only error a BC_* command's checks can report is RANGE (60_exceptions.md R242). -/
theorem State.cipherError_of_not_fits (hk : s.keyValid = true)
    (hout : ¬ (Fits s s.regs.auxPtr t ∧ Fits s s.regs.srcPtr b ∧ Fits s s.regs.dstPtr o)) :
    s.cipherError t b o = some .range := by
  have hne : s.cipherError t b o ≠ none := fun h => hout ((s.cipherError_eq_none_iff_fits t b o).1 h).2
  rw [State.cipherError, firstError_cons, hk] at hne ⊢
  cases hr : s.outOfRange [s.auxRegion t, s.srcRegion b, s.dstRegion o]
  · simp [hr] at hne
  · simp

/-- A BC_* command with a key whose regions lie in M makes its effect. -/
theorem exec_of_cipher_inside (hi : isEngine i = false) (hr : s.commandError i = s.cipherError t b o)
    (hk : s.keyValid = true) (hfits : Fits s s.regs.auxPtr t ∧ Fits s s.regs.srcPtr b ∧ Fits s s.regs.dstPtr o) :
    exec i s = .next ((s.applyEffect (s.commandEffect i)).finishKeyed (s.commandEffect i).code) := by
  have hnone : s.commandError i = none := hr.trans ((s.cipherError_eq_none_iff_fits t b o).2 ⟨hk, hfits⟩)
  rw [exec_eq, State.afterCommand_of_none hnone, State.endCommand_of_keyed _ _ hi]

/-- The meaning of a BC_* command. -/
theorem exec_of_cipher (hi : isEngine i = false) (hr : s.commandError i = s.cipherError t b o) :
    exec i s = .next (
      if s.keyValid = false then s.finishKeyed .noKey
      else if Fits s s.regs.auxPtr t ∧ Fits s s.regs.srcPtr b ∧ Fits s s.regs.dstPtr o then
        (s.applyEffect (s.commandEffect i)).finishKeyed (s.commandEffect i).code
      else s.finishKeyed .range) := by
  split
  next hk =>
    rw [exec_eq, State.afterCommand_of_error (hr.trans (State.cipherError_of_noKey hk)),
      State.endCommand_of_keyed _ _ hi]
  next hk =>
    have hkey : s.keyValid = true := by simpa using hk
    split
    next hfits => exact exec_of_cipher_inside hi hr hkey hfits
    next hout =>
      rw [exec_eq, State.afterCommand_of_error (hr.trans (State.cipherError_of_not_fits hkey hout)),
        State.endCommand_of_keyed _ _ hi]

end

/-- Settles O40: the checks, then one block through E. -/
theorem bcEncResult : Obligations.BcEncResult :=
  ⟨fun s => ⟨s.drawQ.q, s.draws + 8, exec_of_cipher rfl rfl⟩, decodeWord_encode .bcEnc, by decide +kernel,
    by decide +kernel⟩

/-- Settles O41: the checks, then one block through E under each of two tweaks. -/
theorem bcDualKsResult : Obligations.BcDualKsResult :=
  ⟨fun s => ⟨s.drawQ.q, s.draws + 8, exec_of_cipher rfl rfl⟩, decodeWord_encode .bcDualKs, by decide +kernel,
    by decide +kernel⟩

/-- Settles O42: the checks, then TagAcc1 on the running tag. -/
theorem bcTag1Result : Obligations.BcTag1Result :=
  ⟨fun s => ⟨s.drawQ.q, s.draws + 8, exec_of_cipher rfl rfl⟩, decodeWord_encode .bcTag1, by decide +kernel⟩

/-- Settles O43: the checks, then TagAcc2 on the running tag; equal halves cancel. -/
theorem bcTag2Result : Obligations.BcTag2Result :=
  ⟨fun s => ⟨s.drawQ.q, s.draws + 8, exec_of_cipher rfl rfl⟩, decodeWord_encode .bcTag2, by decide +kernel,
    fun _ acc _ _ => Block.xor_xor_cancel acc _⟩

/-! ### BC_TAG2 as two BC_TAG1 -/

/-- M after one block has been folded into the running tag at `d`, with the tweak at `a` and the block at `b`
(42_cipher.md R173). -/
def Memory.foldTag (m : Memory) (dk : Vector Block 17) (d a b : Nat) : Memory :=
  m.writeBytes d (tagAcc1 dk (m.readBlock d) (m.readBlock a) (m.readBlock b)).bytes

/-- Two folds are TagAcc2 on the running tag (42_cipher.md R174), when the first one leaves the second tweak and
block. -/
theorem Memory.foldTag_foldTag {size : Nat} {m : Memory} (h : m.wf size) (dk : Vector Block 17) {d : Nat}
    (a b : Nat) {a' b' : Nat} (hd : d + 16 ≤ size) (ha : a' + 16 ≤ d ∨ d + 16 ≤ a') (hb : b' + 16 ≤ d ∨ d + 16 ≤ b') :
    (m.foldTag dk d a b).foldTag dk d a' b' =
      m.writeBytes d (tagAcc2 dk (m.readBlock d) (m.readBlock a) (m.readBlock a') (m.readBlock b)
        (m.readBlock b')).bytes := by
  rw [Memory.foldTag, Memory.foldTag, Memory.readBlock_writeBytes_same, Memory.readBlock_writeBytes_apart _ _ _ _ ha,
    Memory.readBlock_writeBytes_apart _ _ _ _ hb,
    Memory.writeBytes_over h (Block.bytes_length _) (Block.bytes_length _) hd]
  rfl

/-- BC_TAG1 with a key and its regions in M folds one block into the running tag. -/
theorem eq_foldTag_of_exec_bcTag1 {s t : State} (ht : exec .bcTag1 s = .next t) (hk : s.keyValid = true)
    (ha : s.regs.auxPtr.toNat + 16 ≤ s.cfg.memSize) (hb : s.regs.srcPtr.toNat + 16 ≤ s.cfg.memSize)
    (hd : s.regs.dstPtr.toNat + 16 ≤ s.cfg.memSize) :
    t = (s.setMem (s.mem.foldTag s.dk s.regs.dstPtr.toNat s.regs.auxPtr.toNat s.regs.srcPtr.toNat)).finishKeyed .ok := by
  rw [exec_of_cipher_inside rfl rfl hk ⟨.inr ha, .inr hb, .inr hd⟩] at ht
  cases ht
  rfl

/-- BC_TAG2 with a key and its regions in M folds two blocks into the running tag. -/
theorem exec_bcTag2_inside {s : State} (hk : s.keyValid = true) (ha : s.regs.auxPtr.toNat + 32 ≤ s.cfg.memSize)
    (hb : s.regs.srcPtr.toNat + 32 ≤ s.cfg.memSize) (hd : s.regs.dstPtr.toNat + 16 ≤ s.cfg.memSize) :
    exec .bcTag2 s = .next ((s.setMem (s.mem.writeBytes s.regs.dstPtr.toNat
      (tagAcc2 s.dk (s.mem.readBlock s.regs.dstPtr.toNat) (s.mem.readBlock s.regs.auxPtr.toNat)
        (s.mem.readBlock (s.regs.auxPtr.toNat + 16)) (s.mem.readBlock s.regs.srcPtr.toNat)
        (s.mem.readBlock (s.regs.srcPtr.toNat + 16))).bytes)).finishKeyed .ok) :=
  exec_of_cipher_inside rfl rfl hk ⟨.inr ha, .inr hb, .inr hd⟩

/-- A pointer 16 further does not wrap while M goes on behind it: no address of M lies above 2^32 - 1. -/
theorem toNat_add_sixteen {p : Word} {c : Config} (h : p.toNat + 32 ≤ c.memSize) : (p + 16).toNat = p.toNat + 16 := by
  have hsize : c.memSize ≤ 2 ^ 32 := c.memTop.isLt
  rw [BitVec.toNat_add]
  exact Nat.mod_eq_of_lt (by show p.toNat + 16 < 2 ^ 32; omega)

/-- Settles O44: the first BC_TAG1 leaves both tweaks and blocks, and the second one writes over its tag. -/
theorem bcTag2IsTwoBcTag1 : Obligations.BcTag2IsTwoBcTag1 := by
  intro s t u hwf hk ha hb hd hda hdb ht hu
  have haux := toNat_add_sixteen ha
  have hsrc := toNat_add_sixteen hb
  have ha' : (s.regs.auxPtr + 16).toNat + 16 ≤ s.cfg.memSize := by omega
  have hb' : (s.regs.srcPtr + 16).toNat + 16 ≤ s.cfg.memSize := by omega
  obtain rfl := eq_foldTag_of_exec_bcTag1 ht hk (by omega) (by omega) hd
  obtain rfl := eq_foldTag_of_exec_bcTag1 hu hk ha' hb' hd
  refine ⟨_, exec_bcTag2_inside hk ha hb hd, ?_, rfl⟩
  simp only [State.finishKeyed_mem, State.finishKeyed_dk, State.finishKeyed_regs, State.setMem_mem, State.setMem_dk,
    State.setMem_regs, haux, hsrc]
  exact (Memory.foldTag_foldTag hwf s.dk _ _ hd (by omega) (by omega)).symm

end Sys2Proof.Machine
end

section
/-! The AEAD functions: the chunked walk (O45), and the keystream and Open of a sealed message (O46). -/

namespace Sys2Proof

/-! ### Absorption -/

/-- Two calls folded by TagAcc2 are folded by TagAcc1 one after the other (42_cipher.md R173, R174). -/
theorem walkCalls_eq_foldCalls (dk : Vector Block 17) (acc : Block) (c : List (Block × Block)) :
    walkCalls dk acc c = foldCalls dk acc c := by
  induction acc, c using walkCalls.induct (dk := dk) with
  | case1 => rfl
  | case2 => rfl
  | case3 acc c d rest ih => exact ih

theorem absorbWalk_eq_absorb (dk : Vector Block 17) (acc : Block) (x : List Byte) (p f : BitVec 4) :
    absorbWalk dk acc x p f = absorb dk acc x p f := by
  simp only [absorbWalk, absorb, absorbCalls, foldCalls_append, walkCalls_eq_foldCalls]
  split <;> rfl

/-- The order of two calls does not matter: each is XORed into the running authenticator. -/
theorem tagAcc1_right_comm (dk : Vector Block 17) (acc t b t' b' : Block) :
    tagAcc1 dk (tagAcc1 dk acc t b) t' b' = tagAcc1 dk (tagAcc1 dk acc t' b') t b := by
  simp only [tagAcc1, Block.xor_assoc, Block.xor_comm (encryptBlock dk t b)]

theorem foldCalls_perm (dk : Vector Block 17) (acc : Block) {c d : List (Block × Block)} (h : c.Perm d) :
    foldCalls dk acc c = foldCalls dk acc d :=
  h.foldl_eq' (fun x _ y _ a => tagAcc1_right_comm dk a x.1 x.2 y.1 y.2) acc

/-- Settles O45: the walk folds the calls of the full blocks, and XOR makes the order of calls immaterial. -/
theorem chunkedWalkComputesAbsorb : Obligations.ChunkedWalkComputesAbsorb :=
  ⟨absorbWalk_eq_absorb, fun dk acc _ _ h => foldCalls_perm dk acc h⟩

/-! ### The keystream, byte by byte -/

/-- Byte i of the keystream itself, before it is XORed with a text (43_aead.md R208). -/
def keystreamByte (dk : Vector Block 17) (g : Block) (nonce : List Byte) (i : Nat) : Byte :=
  (keystreamBlock dk g nonce (i / 16)).bytes.getD (i % 16) 0

section
variable (dk : Vector Block 17) (g : Block) (nonce x : List Byte)

/-- The keystream of chunk n in bytes. -/
theorem xorBytes_chunk_eq_mapIdx (n : Nat) :
    xorBytes (chunk x n) (keystreamBlock dk g nonce n).bytes =
      (chunk x n).mapIdx fun i b => b ^^^ keystreamByte dk g nonce (i + 16 * n) := by
  have hchunk : (chunk x n).length ≤ 16 := List.length_take_le ..
  refine List.ext_getElem (by simp [hchunk]) fun i hi hi' => ?_
  have hi16 : i < 16 := by simp at hi'; omega
  have hdiv : (i + 16 * n) / 16 = n := by omega
  have hks : i < (keystreamBlock dk g nonce n).bytes.length := hi16
  simp [xorBytes, keystreamByte, hdiv, Nat.mod_eq_of_lt hi16, List.getElem?_eq_getElem hks]

/-- The first n chunks of the keystream over a text, in bytes. -/
theorem keystream_chunks_eq_mapIdx (n : Nat) :
    ((List.range n).flatMap fun j => xorBytes (chunk x j) (keystreamBlock dk g nonce j).bytes) =
      (x.take (16 * n)).mapIdx fun i b => b ^^^ keystreamByte dk g nonce i := by
  induction n with
  | zero => rfl
  | succ n ih =>
    have htake : x.take (16 * (n + 1)) = x.take (16 * n) ++ chunk x n := by rw [chunk, ← List.take_add]; rfl
    rw [List.range_succ, List.flatMap_append, ih, List.flatMap_singleton, xorBytes_chunk_eq_mapIdx, htake,
      List.mapIdx_append]
    rcases Nat.lt_or_ge (16 * n) x.length with h | h
    · rw [List.length_take, Nat.min_eq_left h.le]
    · simp [chunk, List.drop_eq_nil_of_le h]

/-- The keystream XORs each byte of the text with a byte that does not depend on the text. -/
theorem keystream_eq_mapIdx :
    keystream dk g nonce x = x.mapIdx fun i b => b ^^^ keystreamByte dk g nonce i := by
  rw [keystream, keystream_chunks_eq_mapIdx, List.take_of_length_le]
  rw [chunkCount]
  omega

/-- The keystream over its own result gives the text back. -/
@[simp] theorem keystream_keystream : keystream dk g nonce (keystream dk g nonce x) = x := by
  simp only [keystream_eq_mapIdx, List.mapIdx_mapIdx]
  refine List.ext_getElem (by simp) fun i _ _ => ?_
  simp

end

/-! ### Blocks inside a byte string -/

/-- The block at an offset is the first block of what follows. -/
theorem blockAt_eq_drop (b : List Byte) (o : Nat) : blockAt b o = blockAt (b.drop o) 0 := by
  simp [blockAt, columnAt, List.getD_eq_getElem?_getD, Nat.add_assoc]

/-- The block where the first of two byte strings has ended. -/
theorem blockAt_append_length (b c : List Byte) : blockAt (b ++ c) b.length = blockAt c 0 := by
  rw [blockAt_eq_drop, List.drop_left]

/-! ### Open of a sealed message -/

section
variable (dk : Vector Block 17) (nonce ad p : List Byte)

/-- The tag of a sealed message stands behind the ciphertext (43_aead.md R209). -/
theorem blockAt_sealMessage :
    blockAt (sealMessage dk nonce p ad) p.length = tagOf dk nonce (authenticate dk ad p) := by
  rw [sealMessage, ← keystream_length dk (tagOf dk nonce (authenticate dk ad p)) nonce p, blockAt_append_length,
    blockAt_bytes]

theorem take_sealMessage :
    (sealMessage dk nonce p ad).take p.length = keystream dk (tagOf dk nonce (authenticate dk ad p)) nonce p :=
  List.take_left' (keystream_length ..)

/-- The keystream of the received tag over the ciphertext is the plaintext (R210 step 1). -/
@[simp] theorem openBody_sealMessage : openBody dk nonce (sealMessage dk nonce p ad) = p := by
  rw [openBody, sealMessage_length, Nat.add_sub_cancel, blockAt_sealMessage, take_sealMessage, keystream_keystream]

/-- The tag of a sealed message verifies (R210 steps 2 to 4). -/
@[simp] theorem openOk_sealMessage : openOk dk nonce (sealMessage dk nonce p ad) ad = true := by
  rw [openOk, openBody_sealMessage, sealMessage_length, Nat.add_sub_cancel, blockAt_sealMessage, beq_self_eq_true]

@[simp] theorem openMessage_sealMessage : openMessage dk nonce (sealMessage dk nonce p ad) ad = (true, p) := by
  simp [openMessage]

end

/-- Settles O46: the tag of a sealed message verifies, and the keystream undoes itself. -/
theorem openOfSealIsPlaintext : Obligations.OpenOfSealIsPlaintext := fun dk nonce p ad =>
  ⟨openMessage_sealMessage dk nonce ad p, sealMessage_length dk nonce p ad⟩

end Sys2Proof
end

section
/-! SUPPORT. The checks of the AEAD commands in the plain arithmetic of the statements, and the effect when none applies. -/

namespace Sys2Proof.Machine

open Sys2Proof.Statements

section
variable (s : State) (n : Nat)

theorem State.readRegion_nonceRegion : s.readRegion s.nonceRegion = nonceOf s := rfl

/-- The range check of the four regions of an AEAD command (20_memory.md R55). -/
theorem State.outOfRange_aead_iff :
    s.outOfRange [s.nonceRegion, s.adRegion, s.inputRegion, s.dstRegion n] = true ↔ ¬ AeadFits s n := by
  rw [← Bool.not_eq_false, State.outOfRange_eq_false]
  simp [Region.inRange_iff, State.nonceRegion, State.adRegion, State.inputRegion, State.dstRegion, Fits]

/-- The overlap check of an AEAD command (20_memory.md R56). -/
theorem State.outputOverlaps_iff : s.outputOverlaps (s.dstRegion n) = true ↔ AeadMeets s n := by
  simp [State.outputOverlaps, Region.overlaps_iff, State.nonceRegion, State.adRegion, State.inputRegion,
    State.dstRegion, AeadMeets, Meets, or_assoc]

/-- The checks of AEAD_ENC in their order (43_aead.md R214). -/
theorem State.encError_eq :
    s.encError =
      if s.keyValid = false then some .noKey
      else if s.regs.nonceLen ≠ 15 then some .nonceSize
      else if ¬ AeadFits s (s.regs.srcLen.toNat + 16) then some .range
      else if AeadMeets s (s.regs.srcLen.toNat + 16) then some .overlap else none := by
  simp only [State.encError, firstError_cons, firstError_nil, Bool.not_eq_true', bne_iff_ne,
    State.outOfRange_aead_iff, State.outputOverlaps_iff]

/-- The checks of AEAD_DEC in their order (R215). -/
theorem State.decError_eq :
    s.decError =
      if s.keyValid = false then some .noKey
      else if s.regs.nonceLen ≠ 15 then some .nonceSize
      else if s.regs.srcLen.toNat < 16 then some .auth
      else if ¬ AeadFits s (s.regs.srcLen.toNat - 16) then some .range
      else if AeadMeets s (s.regs.srcLen.toNat - 16) then some .overlap else none := by
  simp only [State.decError, firstError_cons, firstError_nil, Bool.not_eq_true', bne_iff_ne, decide_eq_true_eq,
    State.outOfRange_aead_iff, State.outputOverlaps_iff]

end

section
variable {s : State}

/-- When no check of AEAD_ENC applies. -/
theorem State.encError_eq_none_iff_fits :
    s.encError = none ↔ s.keyValid = true ∧ s.regs.nonceLen = 15 ∧ AeadFits s (s.regs.srcLen.toNat + 16) ∧
      ¬ AeadMeets s (s.regs.srcLen.toNat + 16) := by
  rw [State.encError_eq_none, ← Bool.not_eq_true, ← Bool.not_eq_true, State.outOfRange_aead_iff,
    State.outputOverlaps_iff, not_not]

/-- When no check of AEAD_DEC applies. -/
theorem State.decError_eq_none_iff_fits :
    s.decError = none ↔ s.keyValid = true ∧ s.regs.nonceLen = 15 ∧ 16 ≤ s.regs.srcLen.toNat ∧
      AeadFits s (s.regs.srcLen.toNat - 16) ∧ ¬ AeadMeets s (s.regs.srcLen.toNat - 16) := by
  rw [State.decError_eq_none, ← Bool.not_eq_true, ← Bool.not_eq_true, State.outOfRange_aead_iff,
    State.outputOverlaps_iff, not_not]

/-- AEAD_ENC when no check applies: the sealed message to DST_PTR. -/
theorem exec_aeadEnc_of_none (h : s.encError = none) :
    exec .aeadEnc s =
      .next ((s.store s.regs.dstPtr (sealMessage s.dk (nonceOf s) (inputOf s) (adOf s))).finishKeyed .ok) := by
  have hnone : s.commandError .aeadEnc = none := h
  rw [exec_eq, State.afterCommand_of_none hnone, State.endCommand_of_keyed _ _ rfl]
  rfl

/-- AEAD_DEC when no check applies: what Open gives to DST_PTR, and AUTH when the tag does not verify. -/
theorem exec_aeadDec_of_none (h : s.decError = none) :
    exec .aeadDec s =
      .next ((s.store s.regs.dstPtr (openMessage s.dk (nonceOf s) (inputOf s) (adOf s)).2).finishKeyed
        (if (openMessage s.dk (nonceOf s) (inputOf s) (adOf s)).1 then .ok else .auth)) := by
  have hnone : s.commandError .aeadDec = none := h
  rw [exec_eq, State.afterCommand_of_none hnone, State.endCommand_of_keyed _ _ rfl]
  rfl

/-- AEAD_ENC when a check applies: STATUS, Q and the draws change, and nothing else. -/
theorem exec_aeadEnc_of_error {e : ErrCode} (h : s.encError = some e) : exec .aeadEnc s = .next (s.finishKeyed e) := by
  have herr : s.commandError .aeadEnc = some e := h
  rw [exec_eq, State.afterCommand_of_error herr, State.endCommand_of_keyed _ _ rfl]

/-- AEAD_DEC when a check applies. -/
theorem exec_aeadDec_of_error {e : ErrCode} (h : s.decError = some e) : exec .aeadDec s = .next (s.finishKeyed e) := by
  have herr : s.commandError .aeadDec = some e := h
  rw [exec_eq, State.afterCommand_of_error herr, State.endCommand_of_keyed _ _ rfl]

end

end Sys2Proof.Machine
end

section
/-! The phases of the AEAD commands (O50, O51). -/

namespace Sys2Proof.Machine

open Sys2Proof.Statements

/-! ### Parts of a byte string in M -/

theorem Memory.drop_readBytes (m : Memory) (a n k : Nat) : (m.readBytes a n).drop k = m.readBytes (a + k) (n - k) := by
  refine List.ext_getElem (by simp) fun i _ _ => ?_
  simp [Memory.readBytes_getElem, Nat.add_assoc]

theorem Memory.take_readBytes (m : Memory) (a n k : Nat) : (m.readBytes a n).take k = m.readBytes a (min k n) := by
  refine List.ext_getElem (by simp) fun i _ _ => ?_
  simp [Memory.readBytes_getElem]

theorem Memory.chunk_readBytes (m : Memory) (a n j : Nat) :
    chunk (m.readBytes a n) j = m.readBytes (a + 16 * j) (min 16 (n - 16 * j)) := by
  rw [chunk, Memory.drop_readBytes, Memory.take_readBytes]

/-- A byte string written leaves a region that it does not meet. -/
theorem Memory.readBytes_writeBytes_of_not_meets (m : Memory) {p q : Word} {v : List Byte} {n : Nat}
    (h : ¬ Meets p v.length q n) : (m.writeBytes p.toNat v).readBytes q.toNat n = m.readBytes q.toNat n := by
  rcases Nat.eq_zero_or_pos n with rfl | hn
  · rfl
  rcases Nat.eq_zero_or_pos v.length with hv | hv
  · rw [List.eq_nil_of_length_eq_zero hv, Memory.writeBytes]
  · exact Memory.readBytes_writeBytes_apart _ _ _ _ _ (by omega)

/-! ### The stream of blocks, when the output is the input's region or lies apart from it -/

section
variable (dk : Vector Block 17) (g : Block) (nonce : List Byte) {src dst len : Nat}
  (hplace : src = dst ∨ src + len ≤ dst ∨ dst + len ≤ src)
include hplace

/-- Block j written at its place in the output leaves every later block of the input. -/
theorem chunk_readBytes_writeBytes_of_lt (m : Memory) {v : List Byte} {i j : Nat}
    (hv : v.length = min 16 (len - 16 * j)) (hij : j < i) (hi : i < chunkCount len) :
    chunk ((m.writeBytes (dst + 16 * j) v).readBytes src len) i = chunk (m.readBytes src len) i := by
  rw [chunkCount] at hi
  rw [Memory.chunk_readBytes, Memory.chunk_readBytes, Memory.readBytes_writeBytes_apart _ _ _ _ _ (by omega)]

/-- What the blocks j to j + k - 1 of a message leave in M: their keystream, written at once behind what stands before
them. -/
theorem streamBlocks_eq_writeBytes {k j : Nat} (hk : j + k ≤ chunkCount len) (m : Memory) :
    streamBlocks dk g nonce src dst len k j m = m.writeBytes (dst + 16 * j)
      ((List.range' j k).flatMap fun i =>
        xorBytes (chunk (m.readBytes src len) i) (keystreamBlock dk g nonce i).bytes) := by
  induction k generalizing j m with
  | zero => rfl
  | succ k ih =>
    generalize hv : xorBytes (chunk (m.readBytes src len) j) (keystreamBlock dk g nonce j).bytes = v
    have hlen : v.length = min 16 (len - 16 * j) := by
      rw [← hv, xorBytes_length, Memory.chunk_readBytes, Memory.readBytes_length, Block.bytes_length]
      omega
    have hlater : ∀ i ∈ List.range' (j + 1) k,
        chunk ((m.writeBytes (dst + 16 * j) v).readBytes src len) i = chunk (m.readBytes src len) i := by
      intro i hi
      rw [List.mem_range'_1] at hi
      exact chunk_readBytes_writeBytes_of_lt hplace m hlen (by omega) (by omega)
    rw [streamBlocks, ← Memory.chunk_readBytes, hv, ih (by omega), List.range'_succ, List.flatMap_cons, hv,
      Memory.writeBytes_append, List.flatMap_congr fun i hi => by rw [hlater i hi]]
    cases k with
    | zero => rfl
    | succ k =>
      have hfull : v.length = 16 := by rw [chunkCount] at hk; omega
      rw [hfull, Nat.add_assoc, ← Nat.mul_succ]

/-- The stream of all blocks leaves the keystream over the input at the output address (43_aead.md R212 (4), R213 (2)). -/
theorem streamBlocks_eq_keystream (m : Memory) :
    streamBlocks dk g nonce src dst len (chunkCount len) 0 m =
      m.writeBytes dst (keystream dk g nonce (m.readBytes src len)) := by
  rw [streamBlocks_eq_writeBytes dk g nonce hplace (by omega), keystream, Memory.readBytes_length,
    List.range_eq_range']
  rfl

end

/-- An output that does not meet the input other than in place is the input's region or lies apart from it, as far as the
first `len` bytes of both go. -/
theorem place_of_not_aeadMeets {s : State} {n len : Nat} (h : ¬ AeadMeets s n) (hn : len ≤ n)
    (hlen : len ≤ s.regs.srcLen.toNat) :
    s.regs.srcPtr.toNat = s.regs.dstPtr.toNat ∨ s.regs.srcPtr.toNat + len ≤ s.regs.dstPtr.toNat ∨
      s.regs.dstPtr.toNat + len ≤ s.regs.srcPtr.toNat := by
  by_cases hp : s.regs.dstPtr = s.regs.srcPtr
  · exact .inl (by rw [hp])
  · have hapart : ¬ Meets s.regs.dstPtr n s.regs.srcPtr s.regs.srcLen.toNat := fun hm => h (.inr (.inr ⟨hm, hp⟩))
    omega

/-! ### AEAD_ENC -/

/-- The phases of AEAD_ENC write the sealed message: the ciphertext by the stream, then the tag. -/
theorem sequenceEnc_eq {s : State} (h : ¬ AeadMeets s (s.regs.srcLen.toNat + 16)) :
    sequenceEnc s = s.mem.writeBytes s.regs.dstPtr.toNat (sealMessage s.dk (nonceOf s) (inputOf s) (adOf s)) := by
  have hplace := place_of_not_aeadMeets h (Nat.le_add_right _ 16) le_rfl
  rw [sealMessage, Memory.writeBytes_append, keystream_length, Memory.readBytes_length]
  simp only [sequenceEnc, streamBlocks_eq_keystream _ _ _ hplace]
  rfl

/-- Settles O50: the stream of blocks leaves the keystream over the plaintext, and the tag follows it. -/
theorem sequencedEncryptionAgrees : Obligations.SequencedEncryptionAgrees := by
  intro s hk hn hfits hmeets
  exact ⟨_, exec_aeadEnc_of_none (State.encError_eq_none_iff_fits.2 ⟨hk, hn, hfits, hmeets⟩), rfl,
    (sequenceEnc_eq hmeets).symm⟩

/-! ### AEAD_DEC -/

section
variable {s : State}

theorem blockAt_inputOf (h16 : 16 ≤ s.regs.srcLen.toNat) :
    blockAt (inputOf s) (s.regs.srcLen.toNat - 16) =
      s.mem.readBlock (s.regs.srcPtr.toNat + (s.regs.srcLen.toNat - 16)) := by
  rw [blockAt_eq_drop, Memory.drop_readBytes, Memory.readBlock, Nat.sub_sub_self h16]

/-- The recovered plaintext of the input in M: the keystream of the tag behind it over the rest of it. -/
theorem openBody_inputOf (h16 : 16 ≤ s.regs.srcLen.toNat) :
    openBody s.dk (nonceOf s) (inputOf s) =
      keystream s.dk (s.mem.readBlock (s.regs.srcPtr.toNat + (s.regs.srcLen.toNat - 16))) (nonceOf s)
        (s.mem.readBytes s.regs.srcPtr.toNat (s.regs.srcLen.toNat - 16)) := by
  rw [openBody, Memory.readBytes_length, blockAt_inputOf h16, Memory.take_readBytes, Nat.min_eq_left (Nat.sub_le _ _)]

/-- M when the stream of AEAD_DEC has ended: the recovered plaintext at DST_PTR (43_aead.md R213 (2)). -/
def State.decStreamed (s : State) : Memory :=
  s.mem.writeBytes s.regs.dstPtr.toNat (openBody s.dk (nonceOf s) (inputOf s))

theorem openBody_inputOf_length :
    (openBody s.dk (nonceOf s) (inputOf s)).length = s.regs.srcLen.toNat - 16 := by
  simp [openBody]

/-- The stream of AEAD_DEC leaves the recovered plaintext at DST_PTR. -/
theorem State.streamBlocks_eq_decStreamed (h16 : 16 ≤ s.regs.srcLen.toNat)
    (h : ¬ AeadMeets s (s.regs.srcLen.toNat - 16)) :
    streamBlocks s.dk (s.mem.readBlock (s.regs.srcPtr.toNat + (s.regs.srcLen.toNat - 16))) (nonceOf s)
      s.regs.srcPtr.toNat s.regs.dstPtr.toNat (s.regs.srcLen.toNat - 16) (chunkCount (s.regs.srcLen.toNat - 16)) 0
      s.mem = s.decStreamed := by
  rw [streamBlocks_eq_keystream _ _ _ (place_of_not_aeadMeets h le_rfl (Nat.sub_le _ _)), ← openBody_inputOf h16,
    State.decStreamed]

/-- The streamed plaintext leaves the AD. -/
theorem State.decStreamed_readBytes_ad (h : ¬ AeadMeets s (s.regs.srcLen.toNat - 16)) :
    s.decStreamed.readBytes s.regs.adPtr.toNat s.regs.adLen.toNat = adOf s :=
  s.mem.readBytes_writeBytes_of_not_meets fun hm => h (.inr (.inl (by rwa [openBody_inputOf_length] at hm)))

/-- The plaintext read back from DST is the one streamed there. -/
theorem State.decStreamed_readBytes_dst :
    s.decStreamed.readBytes s.regs.dstPtr.toNat (s.regs.srcLen.toNat - 16) =
      openBody s.dk (nonceOf s) (inputOf s) := by
  rw [← openBody_inputOf_length, State.decStreamed, Memory.readBytes_writeBytes_same]

/-- The comparison of Open in terms of M (43_aead.md R210 steps 2 to 4). -/
theorem openOk_inputOf_iff (h16 : 16 ≤ s.regs.srcLen.toNat) :
    openOk s.dk (nonceOf s) (inputOf s) (adOf s) = true ↔
      tagOf s.dk (nonceOf s) (authenticate s.dk (adOf s) (openBody s.dk (nonceOf s) (inputOf s))) =
        s.mem.readBlock (s.regs.srcPtr.toNat + (s.regs.srcLen.toNat - 16)) := by
  rw [openOk, beq_iff_eq, Memory.readBytes_length, blockAt_inputOf h16]

/-- Zeros over the streamed plaintext leave nothing of it. -/
theorem State.decStreamed_zeroed (hwf : s.mem.wf s.cfg.memSize)
    (hfits : Fits s s.regs.dstPtr (s.regs.srcLen.toNat - 16)) :
    s.decStreamed.writeBytes s.regs.dstPtr.toNat (zeros (s.regs.srcLen.toNat - 16)) =
      s.mem.writeBytes s.regs.dstPtr.toNat (zeros (s.regs.srcLen.toNat - 16)) := by
  have hlen : (openBody s.dk (nonceOf s) (inputOf s)).length = s.regs.srcLen.toNat - 16 := openBody_inputOf_length
  rcases hfits with hzero | hfits
  · rw [State.decStreamed, List.eq_nil_of_length_eq_zero (hlen.trans hzero), Memory.writeBytes]
  · exact Memory.writeBytes_over hwf hlen (zeros_length _) hfits

/-- The phases of AEAD_DEC: the comparison is that of Open, and a mismatch zeroes the streamed plaintext. -/
theorem sequenceDec_eq (h16 : 16 ≤ s.regs.srcLen.toNat) (h : ¬ AeadMeets s (s.regs.srcLen.toNat - 16)) :
    sequenceDec s = if openOk s.dk (nonceOf s) (inputOf s) (adOf s) then (true, s.decStreamed)
      else (false, s.decStreamed.writeBytes s.regs.dstPtr.toNat (zeros (s.regs.srcLen.toNat - 16))) := by
  simp only [openOk_inputOf_iff h16, sequenceDec, State.readRegion_nonceRegion, State.streamBlocks_eq_decStreamed h16 h,
    State.decStreamed_readBytes_ad h, State.decStreamed_readBytes_dst, authenticate]

end

/-- Settles O51: the two outcomes of the comparison are those of Open, and zeros over the streamed plaintext leave nothing
of it. -/
theorem sequencedDecryptionAgrees : Obligations.SequencedDecryptionAgrees := by
  intro s hwf hk hn h16 hfits hmeets
  refine ⟨_, exec_aeadDec_of_none (State.decError_eq_none_iff_fits.2 ⟨hk, hn, h16, hfits, hmeets⟩), ?_⟩
  rw [sequenceDec_eq h16 hmeets, openMessage]
  split
  · exact ⟨rfl, rfl⟩
  · obtain ⟨-, -, -, hdst⟩ := hfits
    refine ⟨rfl, ?_⟩
    simp [State.decStreamed_zeroed hwf hdst]

end Sys2Proof.Machine
end

section
/-! AEAD_DEC after AEAD_ENC (O49). -/

namespace Sys2Proof.Machine

open Sys2Proof.Statements

/-- No check of AEAD_ENC reports success. -/
theorem State.encError_ne_ok (s : State) : s.encError ≠ some .ok := by
  rw [State.encError_eq]
  split_ifs <;> simp

/-- An AEAD_ENC that finishes OK has written the sealed message. -/
theorem aeadEnc_ok {s t : State} (ht : exec .aeadEnc s = .next t) (hok : t.err = .ok) :
    s.encError = none ∧
      t = (s.store s.regs.dstPtr (sealMessage s.dk (nonceOf s) (inputOf s) (adOf s))).finishKeyed .ok := by
  cases he : s.encError with
  | some e =>
    obtain rfl : s.finishKeyed e = t := Host.Outcome.next.inj ((exec_aeadEnc_of_error he).symm.trans ht)
    exact absurd (he.trans (congrArg some hok)) s.encError_ne_ok
  | none => exact ⟨rfl, (Host.Outcome.next.inj ((exec_aeadEnc_of_none he).symm.trans ht)).symm⟩

/-- The state after an AEAD_ENC that finishes OK, with the registers set for an AEAD_DEC of its output in place. -/
def State.afterSeal (s : State) : State :=
  ((s.store s.regs.dstPtr (sealMessage s.dk (nonceOf s) (inputOf s) (adOf s))).finishKeyed .ok).setRegs
    { s.regs with srcPtr := s.regs.dstPtr, srcLen := s.regs.srcLen + 16 }

section
variable {s : State}

/-- A shorter output meets no more than a longer one. -/
theorem Meets.mono_left {p q : Word} {n n' m : Nat} (h : Meets p n q m) (hn : n ≤ n') : Meets p n' q m := by omega

/-- A read behind AEAD_ENC's output gives what it gave before. -/
theorem State.readBytes_afterSeal {p : Word} {n : Nat} (h : ¬ Meets s.regs.dstPtr (s.regs.srcLen.toNat + 16) p n) :
    s.afterSeal.mem.readBytes p.toNat n = s.mem.readBytes p.toNat n :=
  s.mem.readBytes_writeBytes_of_not_meets (by simpa using h)

theorem State.nonceOf_afterSeal (h : ¬ AeadMeets s (s.regs.srcLen.toNat + 16)) : nonceOf s.afterSeal = nonceOf s :=
  State.readBytes_afterSeal fun hm => h (.inl hm)

theorem State.adOf_afterSeal (h : ¬ AeadMeets s (s.regs.srcLen.toNat + 16)) : adOf s.afterSeal = adOf s :=
  State.readBytes_afterSeal fun hm => h (.inr (.inl hm))

section
variable (hlen : s.regs.srcLen.toNat + 16 < 2 ^ 32)
include hlen

theorem State.afterSeal_srcLen : s.afterSeal.regs.srcLen.toNat = s.regs.srcLen.toNat + 16 :=
  (BitVec.toNat_add _ _).trans (Nat.mod_eq_of_lt hlen)

theorem State.inputOf_afterSeal : inputOf s.afterSeal = sealMessage s.dk (nonceOf s) (inputOf s) (adOf s) := by
  have hseal : (sealMessage s.dk (nonceOf s) (inputOf s) (adOf s)).length = s.regs.srcLen.toNat + 16 := by simp
  rw [inputOf, State.afterSeal_srcLen hlen, ← hseal]
  exact Memory.readBytes_writeBytes_same _ _ _

/-- The checks of the AEAD_DEC pass where those of the AEAD_ENC have passed: its output lies in the other's, and its input
is the other's output. -/
theorem State.decError_afterSeal (he : s.encError = none) : s.afterSeal.decError = none := by
  obtain ⟨hk, hn, ⟨hnonce, had, -, hdst⟩, hmeets⟩ := State.encError_eq_none_iff_fits.1 he
  have hsrc := State.afterSeal_srcLen hlen
  have hin : Fits s.afterSeal s.regs.dstPtr s.afterSeal.regs.srcLen.toNat := by rw [hsrc]; exact hdst
  have hout : Fits s.afterSeal s.regs.dstPtr (s.afterSeal.regs.srcLen.toNat - 16) := by
    rw [hsrc, Nat.add_sub_cancel]
    exact .inr (by rcases hdst with h | h <;> omega)
  have hle : s.afterSeal.regs.srcLen.toNat - 16 ≤ s.regs.srcLen.toNat + 16 := by omega
  refine State.decError_eq_none_iff_fits.2 ⟨hk, hn, by omega, ⟨hnonce, had, hin, hout⟩, ?_⟩
  rintro (hm | hm | ⟨-, hne⟩)
  · exact hmeets (.inl (Meets.mono_left hm hle))
  · exact hmeets (.inr (.inl (Meets.mono_left hm hle)))
  · exact hne rfl

/-- Open of what AEAD_ENC has written gives the plaintext. -/
theorem State.openMessage_afterSeal (he : s.encError = none) :
    openMessage s.afterSeal.dk (nonceOf s.afterSeal) (inputOf s.afterSeal) (adOf s.afterSeal) = (true, inputOf s) := by
  obtain ⟨-, -, -, hmeets⟩ := State.encError_eq_none_iff_fits.1 he
  rw [State.nonceOf_afterSeal hmeets, State.adOf_afterSeal hmeets, State.inputOf_afterSeal hlen]
  exact openMessage_sealMessage ..

end

end

/-- Settles O49: AEAD_DEC reads back the nonce, the AD and the sealed message, and opens it. -/
theorem decryptionRecoversPlaintext : Obligations.DecryptionRecoversPlaintext := by
  intro s t ht hok hlen
  obtain ⟨he, rfl⟩ := aeadEnc_ok ht hok
  have hdec := exec_aeadDec_of_none (State.decError_afterSeal hlen he)
  rw [State.openMessage_afterSeal hlen he] at hdec
  refine ⟨_, hdec, rfl, ?_⟩
  have hback := s.afterSeal.mem.readBytes_writeBytes_same s.regs.dstPtr.toNat (inputOf s)
  rwa [Memory.readBytes_length] at hback

end Sys2Proof.Machine
end

section
/-! AEAD_ENC and AEAD_DEC case by case (O47, O48), and the byte strings that Seal and Open build. -/

namespace Sys2Proof

open Sys2Proof.Statements

/-- The bytes of an index are its base-256 digits, most significant first (00_scope.md R13). -/
theorem be32_bytes (j : Nat) : (be32 j).bytes = bigEndian j := by
  have hdigit : ∀ k, BitVec.ofNat 8 (k % 256) = BitVec.ofNat 8 k := fun k =>
    BitVec.eq_of_toNat_eq (by simp)
  simp only [be32, Column.bytes, bigEndian, Nat.shiftRight_eq_div_pow, hdigit]

/-- The authentication tweak: the domain nibble first, the index in the last four bytes (43_aead.md R200). -/
theorem authTweak_bytes (p : BitVec 4) (i : Nat) :
    (authTweak p i).bytes = (p ++ (0 : BitVec 4)) :: (zeros 11 ++ bigEndian i) := by
  rw [← be32_bytes]
  rfl

/-- The keystream tweak sets bit 7 of the tag's byte 0 and XORs the index into its last four bytes (R207). -/
theorem ksTweak_bytes (g : Block) (j : Nat) :
    (ksTweak g j).bytes =
      (g.bytes.getD 0 0 ||| 0x80) :: ((g.bytes.drop 1).take 11 ++ xorBytes (g.bytes.drop 12) (bigEndian j)) := by
  rw [← be32_bytes]
  rfl

/-- Zeros behind a byte string do not change its blocks: a byte behind its end counts as zero. -/
theorem blockAt_append_zeros (b : List Byte) (n o : Nat) : blockAt (b ++ zeros n) o = blockAt b o := by
  have hbyte : ∀ i, (b ++ zeros n).getD i 0 = b.getD i 0 := by
    intro i
    rcases Nat.lt_or_ge i b.length with hi | hi
    · rw [List.getD_append _ _ _ _ hi]
    · rw [List.getD_append_right _ _ _ _ hi, List.getD_eq_default _ _ hi, zeros, List.getD_eq_getElem?_getD,
        List.getElem?_getD_replicate_default_eq]
  simp only [blockAt, columnAt, hbyte]

/-- The padding of 1 to 15 bytes (R202). -/
theorem padBlock_bytes {x : List Byte} (hx : x.length ≤ 15) :
    (padBlock x).bytes = x ++ 0x80 :: zeros (15 - x.length) := by
  rw [padBlock, ← blockAt_append_zeros _ (15 - x.length), bytes_blockAt_zero (by simp; omega), List.append_assoc]
  rfl

theorem nonceBlock_bytes (b : Byte) {n : List Byte} (hn : n.length = 15) : (nonceBlock b n).bytes = b :: n :=
  bytes_blockAt_zero (by simp [hn])

end Sys2Proof

namespace Sys2Proof.Machine

open Sys2Proof.Statements

/-- Settles O47: the checks in their order, then Seal; the byte strings, one by one. -/
theorem aeadEncResult : Obligations.AeadEncResult := by
  refine ⟨fun s => ⟨s.drawQ.q, s.draws + 8, ?_⟩, fun p i _ => authTweak_bytes p i, fun g j _ => ksTweak_bytes g j,
    by decide, by decide, ⟨rfl, rfl, rfl, rfl⟩, fun x _ hx => padBlock_bytes hx, fun b n hn => nonceBlock_bytes b hn,
    decodeWord_encode .aeadEnc, by decide +kernel, by decide +kernel, by decide +kernel⟩
  cases he : s.encError with
  | some e =>
    rw [exec_aeadEnc_of_error he]
    rw [State.encError_eq] at he
    split_ifs at he ⊢ <;> cases he <;> rfl
  | none =>
    obtain ⟨hk, hn, hfits, hmeets⟩ := State.encError_eq_none_iff_fits.1 he
    rw [if_neg (by simp [hk]), if_neg (not_not.2 hn), if_neg (not_not.2 hfits), if_neg hmeets]
    exact exec_aeadEnc_of_none he

/-- Settles O48: the checks in their order, then Open by whether the tag verifies. -/
theorem aeadDecResult : Obligations.AeadDecResult := by
  refine ⟨fun s => ⟨s.drawQ.q, s.draws + 8, ?_⟩, decodeWord_encode .aeadDec, by decide +kernel, by decide +kernel⟩
  cases he : s.decError with
  | some e =>
    rw [exec_aeadDec_of_error he]
    rw [State.decError_eq] at he
    split_ifs at he ⊢ <;> cases he <;> rfl
  | none =>
    obtain ⟨hk, hn, h16, hfits, hmeets⟩ := State.decError_eq_none_iff_fits.1 he
    rw [if_neg (by simp [hk]), if_neg (not_not.2 hn), if_neg h16.not_gt, if_neg (not_not.2 hfits), if_neg hmeets,
      exec_aeadDec_of_none he, openMessage, Memory.readBytes_length]
    split <;> rfl

end Sys2Proof.Machine
end

section
/-! The protocol violations of the host (O58), and the sticky mark (O59). -/

namespace Sys2Proof.Machine

open Sys2Proof.Statements

/-! ### The accesses that a barred host may not make -/

/-- In an unmarked state a violation puts its own kind in the mark, and changes nothing else. -/
theorem State.mark_of_unmarked {s : State} (hf : s.fault = none) (k : Violation) :
    s.mark k = { s with fault := some k } := by
  simp [State.mark, hf]

/-- While the host is barred, every aligned register write in the block and every access to M only sets the mark
(60_exceptions.md R255, 70_reset_and_hazards.md R273). -/
theorem hostStep_barred_marks {s : State} {k : Violation} (hf : s.fault = none) (hk : s.hostBarred = some k) :
    (∀ (o : Nat) (v : Word), o % 4 = 0 → o < 0x40 →
      hostStep (.regWrite o 4 v) s = .next { s with fault := some k }) ∧
    (∀ (a : Nat) (b : List Byte), hostStep (.memWrite a b) s = .next { s with fault := some k }) ∧
    (∀ a n : Nat, hostStep (.memRead a n) s = .next { s with fault := some k }) := by
  rw [← State.mark_of_unmarked hf]
  refine ⟨fun o v halign hlt => ?_, fun a b => hostStep_memWrite_barred b hk, fun a n => hostStep_memRead_barred n hk⟩
  have hr : regOfAccess o 4 ≠ none := fun hr => (regOfAccess_eq_none_iff o 4).1 hr ⟨rfl, halign, hlt⟩
  obtain ⟨r, hr⟩ := Option.ne_none_iff_exists'.1 hr
  exact hostStep_regWrite_barred v hr hk

/-- A read of STATUS gives STATUS, and the duty to read it stays exactly while BUSY = 1 (R273). -/
theorem hostStep_read_status (s : State) :
    hostStep (.regRead 0x04 4) s =
      .next { s with seen := s.seen ++ [.reg 0x04 s.status], awaiting := s.awaiting && s.busy } :=
  hostStep_regRead (r := .status) rfl

/-- Settles O58: while BUSY = 1, and while the read of STATUS is owed after it, the host is barred. -/
theorem accessWhileBusyMarks : Obligations.AccessWhileBusyMarks := by
  intro s hf
  constructor
  · intro hb
    obtain ⟨hwrite, hmemWrite, hmemRead⟩ := hostStep_barred_marks hf (State.hostBarred_of_busy hb)
    refine ⟨hwrite, hmemWrite, hmemRead, ?_⟩
    rw [hostStep_read_status, hb, Bool.and_true, ← hb]
  · intro hb ha
    obtain ⟨hwrite, hmemWrite, hmemRead⟩ := hostStep_barred_marks hf (State.hostBarred_of_awaiting hb ha)
    refine ⟨hwrite, hmemWrite, hmemRead, ?_⟩
    rw [hostStep_read_status, hb, Bool.and_false, ← hb]

/-! ### The mark stays -/

@[simp] theorem State.writeReg_fault (s : State) (v : Word) (r : Reg) : (s.writeReg v r).fault = s.fault := by
  cases r <;> rfl

/-- No host action clears the mark or changes its kind. -/
theorem hostStep_keeps_mark {s t : State} {a : HostAct} {v : Violation} (hf : s.fault = some v)
    (ht : hostStep a s = .next t) : t.fault = some v := by
  rcases hostStep_cases a s with ⟨k, h⟩ | ⟨-, r, w, h⟩ | ⟨-, p, b, -, h⟩ | ⟨r, h⟩ | ⟨r, h⟩ | ⟨-, h⟩ <;>
    cases h.symm.trans ht <;> simp [hf]

/-- Settles O59; that no command changes the mark is part of O12. -/
theorem faultMarkIsSticky : Obligations.FaultMarkIsSticky := by
  intro s v hf
  refine ⟨step_of_marked hf, fun a t ht => hostStep_keeps_mark hf ht, fun i t ht => ?_⟩
  obtain ⟨u, hu, -, -, -, -, hfault, -⟩ := commandsCompleteAndKeepRegisters i s
  cases hu.symm.trans ht
  exact hfault.trans hf

end Sys2Proof.Machine
end

section
/-! The error that each command reports (O15), and what a failed command leaves (O16). -/

namespace Sys2Proof.Machine

open Sys2Proof.Statements

/-! ### The checks of each command in the order of R242 -/

section
variable (s : State)

theorem State.keyError_eq :
    s.keyError =
      if s.regs.keyLen ≠ 32 then some .keySize else if ¬ Fits s s.regs.keyPtr 32 then some .range else none := by
  simp [State.keyError, State.outOfRange, Region.inRange, State.keyRegion]

theorem State.cipherError_eq (t b o : Nat) :
    s.cipherError t b o =
      if s.keyValid = false then some .noKey
      else if ¬ (Fits s s.regs.auxPtr t ∧ Fits s s.regs.srcPtr b ∧ Fits s s.regs.dstPtr o) then some .range
      else none := by
  split_ifs with hk hfits
  · exact State.cipherError_of_noKey hk
  · exact (s.cipherError_eq_none_iff_fits t b o).2 ⟨by simpa using hk, hfits⟩
  · exact State.cipherError_of_not_fits (by simpa using hk) hfits

theorem State.regionError_eq (p : Word) (n : Nat) :
    s.regionError ⟨p, n⟩ = if ¬ Fits s p n then some .range else none := by
  simp [State.regionError, State.outOfRange, Region.inRange]

end

/-! ### The completion code -/

/-- The code that a command whose checks pass finishes with: OK, but for the tag comparison of AEAD_DEC. -/
theorem State.commandEffect_code_of_ne_aeadDec (s : State) {i : Instr} (hi : i ≠ .aeadDec) :
    (s.commandEffect i).code = .ok := by
  cases i with
  | aeadDec => exact absurd rfl hi
  | _ => rfl

/-- The code of AEAD_DEC's tag comparison (43_aead.md R215). -/
theorem State.commandEffect_code_aeadDec (s : State) :
    (s.commandEffect .aeadDec).code = if openOk s.dk (nonceOf s) (inputOf s) (adOf s) then .ok else .auth := by
  change (if (openMessage s.dk (nonceOf s) (inputOf s) (adOf s)).1 then ErrCode.ok else .auth) = _
  rw [openMessage]
  split <;> rfl

/-- Every command completes with the error of its checks, and with the code of its effect when none applies. -/
theorem exec_err (i : Instr) (s : State) :
    ∃ t, exec i s = .next t ∧ t.err = (s.commandError i).getD (s.commandEffect i).code := by
  refine ⟨s.afterCommand i, exec_eq i s, ?_⟩
  rcases s.afterCommand_cases i with ⟨e, he, ht⟩ | ⟨hn, ht⟩
  · simp [ht, he]
  · simp [ht, hn]

/-- A command reports the code that its checks and its effect give. -/
theorem exec_reports {i : Instr} {s : State} {c : ErrCode} (h : (s.commandError i).getD (s.commandEffect i).code = c) :
    ∃ t, exec i s = .next t ∧ t.err = c :=
  h ▸ exec_err i s

section
variable {i : Instr} {s : State}

/-- What a BC_* command reports. -/
theorem exec_reports_of_cipher {t b o : Nat} (hi : i ≠ .aeadDec) (hr : s.commandError i = s.cipherError t b o) :
    ∃ u, exec i s = .next u ∧ u.err =
      if s.keyValid = false then .noKey
      else if ¬ (Fits s s.regs.auxPtr t ∧ Fits s s.regs.srcPtr b ∧ Fits s s.regs.dstPtr o) then .range else .ok := by
  apply exec_reports
  rw [hr, s.commandEffect_code_of_ne_aeadDec hi, State.cipherError_eq]
  split_ifs <;> rfl

/-- What a Q_* command with a region of M reports. -/
theorem exec_reports_of_region {p : Word} {n : Nat} (hi : i ≠ .aeadDec) (hr : s.commandError i = s.regionError ⟨p, n⟩) :
    ∃ u, exec i s = .next u ∧ u.err = if ¬ Fits s p n then .range else .ok := by
  apply exec_reports
  rw [hr, s.commandEffect_code_of_ne_aeadDec hi, State.regionError_eq]
  split_ifs <;> rfl

end

/-- What KEY_SETUP reports. -/
theorem exec_keySetup_reports (s : State) (v : Bool) :
    ∃ t, exec (.keySetup v) s = .next t ∧
      t.err = if s.regs.keyLen ≠ 32 then .keySize else if ¬ Fits s s.regs.keyPtr 32 then .range else .ok := by
  apply exec_reports
  rw [State.commandError, State.keyError_eq]
  split_ifs <;> rfl

/-- What AEAD_ENC reports. -/
theorem exec_aeadEnc_reports (s : State) :
    ∃ t, exec .aeadEnc s = .next t ∧
      t.err = if s.keyValid = false then .noKey else if s.regs.nonceLen ≠ 15 then .nonceSize
        else if ¬ AeadFits s (s.regs.srcLen.toNat + 16) then .range
        else if AeadMeets s (s.regs.srcLen.toNat + 16) then .overlap else .ok := by
  apply exec_reports
  rw [State.commandError, State.encError_eq]
  split_ifs <;> rfl

/-- What AEAD_DEC reports. -/
theorem exec_aeadDec_reports (s : State) :
    ∃ t, exec .aeadDec s = .next t ∧
      t.err = if s.keyValid = false then .noKey else if s.regs.nonceLen ≠ 15 then .nonceSize
        else if s.regs.srcLen.toNat < 16 then .auth
        else if ¬ AeadFits s (s.regs.srcLen.toNat - 16) then .range
        else if AeadMeets s (s.regs.srcLen.toNat - 16) then .overlap
        else if openOk s.dk (nonceOf s) (inputOf s) (adOf s) then .ok else .auth := by
  apply exec_reports
  rw [State.commandError, State.decError_eq, s.commandEffect_code_aeadDec]
  split_ifs <;> rfl

/-- Settles O15, row by row of the table: the checks of each command, then the code of its effect. -/
theorem errorPriority : Obligations.ErrorPriority := by
  refine ⟨fun s hb ⟨e, he⟩ => ⟨_, coreStep_of_illegal hb he, rfl⟩, exec_keySetup_reports, exec_aeadEnc_reports,
    exec_aeadDec_reports, ?bcEnc, ?bcDualKs, ?bcTag1, ?bcTag2, ?qLoad1, ?qLoad2, ?qStore1, ?qStore2, ?qAddrk, ?inPlace⟩
  case bcEnc | bcDualKs | bcTag1 | bcTag2 => exact fun s => exec_reports_of_cipher (by decide) rfl
  case qLoad1 | qLoad2 | qStore1 | qStore2 | qAddrk => exact fun s => exec_reports_of_region (by decide) rfl
  case inPlace => rintro i s (rfl | rfl | rfl | rfl) <;> exact exec_reports rfl

/-! ### Failed commands -/

/-- The checks of AEAD_DEC report AUTH for a short input only. -/
theorem State.srcLen_lt_of_decError_auth {s : State} (h : s.decError = some .auth) : s.regs.srcLen.toNat < 16 := by
  simpa using firstError_mem h

/-- Open of a message whose tag does not verify gives zeros only (43_aead.md R210). -/
theorem State.applyEffect_aeadDec_of_not_ok {s : State} (hc : (s.commandEffect .aeadDec).code ≠ .ok) :
    (s.commandEffect .aeadDec).code = .auth ∧
      s.applyEffect (s.commandEffect .aeadDec) = s.store s.regs.dstPtr (zeros (s.regs.srcLen.toNat - 16)) := by
  rw [s.commandEffect_code_aeadDec] at hc ⊢
  have hbad : ¬ openOk s.dk (nonceOf s) (inputOf s) (adOf s) = true := fun hok => hc (if_pos hok)
  have hzeros : (openMessage s.dk (nonceOf s) (inputOf s) (adOf s)).2 = zeros (s.regs.srcLen.toNat - 16) := by
    rw [openMessage, if_neg hbad, Memory.readBytes_length]
  exact ⟨if_neg hbad, congrArg (s.store s.regs.dstPtr) hzeros⟩

/-- The two ways a command can fail: at one of its checks, which ends it at once, or as an AEAD_DEC at the tag
comparison, which has zeros written over the output region (60_exceptions.md R243, R249). -/
theorem State.afterCommand_of_failed {s : State} {i : Instr} (h : (s.afterCommand i).err ≠ .ok) :
    (∃ e, s.commandError i = some e ∧ s.afterCommand i = s.endCommand i e) ∨
    (i = .aeadDec ∧ 16 ≤ s.regs.srcLen.toNat ∧
      s.afterCommand i = (s.store s.regs.dstPtr (zeros (s.regs.srcLen.toNat - 16))).finishKeyed .auth) := by
  refine (s.afterCommand_cases i).imp_right fun ⟨hn, ht⟩ => ?_
  have hc : (s.commandEffect i).code ≠ .ok := by simpa [ht] using h
  obtain rfl : i = .aeadDec := by
    by_contra hi
    exact hc (s.commandEffect_code_of_ne_aeadDec hi)
  obtain ⟨-, -, h16, -⟩ := s.decError_eq_none.1 hn
  obtain ⟨hauth, hzeros⟩ := State.applyEffect_aeadDec_of_not_ok hc
  exact ⟨rfl, h16, by rw [ht, hauth, hzeros, State.endCommand_of_keyed _ _ rfl]⟩

/-- Settles O16, by the two ways a command can fail. -/
theorem failedCommandEffects : Obligations.FailedCommandEffects := by
  refine ⟨fun s hb ⟨e, he⟩ => coreStep_of_illegal hb he, fun i s t ht hne => ?_⟩
  obtain rfl := eq_afterCommand_of_exec ht
  rcases State.afterCommand_of_failed hne with ⟨e, he, hend⟩ | ⟨rfl, h16, hend⟩ <;> rw [hend]
  · have hcheck : ¬ (i = .aeadDec ∧ (s.endCommand i e).err = .auth ∧ 16 ≤ s.regs.srcLen.toNat) := by
      rintro ⟨rfl, hauth, h16⟩
      obtain rfl : e = .auth := by simpa using hauth
      exact (State.srcLen_lt_of_decError_auth he).not_ge h16
    rw [if_neg hcheck]
    refine ⟨by simp, by simp, by simp, by simp, fun hi => ?_, by simp⟩
    rw [State.endCommand_of_engine _ _ hi, State.finish_q]
  · rw [if_pos ⟨rfl, rfl, h16⟩]
    exact ⟨rfl, rfl, rfl, rfl, fun hi => absurd hi (by decide), rfl⟩

end Sys2Proof.Machine
end

section
/-! The state after a reset (O8, O9), and that a machine starts inside the invariant (O11). -/

namespace Sys2Proof.Machine

/-! ### What a reset leaves -/

/-- The STATUS word of a machine without a key, a command or an error is 0 (10_state.md R23). -/
theorem statusWord_reset : statusWord .ok false false .constantTime = 0 := by decide

/-- After a reset every register of the block reads 0: STATUS has all its fields clear, and no other register keeps a
value (70_reset_and_hazards.md R270). -/
theorem State.applyReset_readReg (s : State) (r : Reg) : s.applyReset.readReg r = 0 := by
  cases r with
  | status => exact statusWord_reset
  | _ => rfl

/-- Q after reset is the orthogonal form of two zero blocks (R270). -/
theorem pack2_zeroBlock : pack2 zeroBlock zeroBlock = zeroWords := by decide

/-- Settles O8: the state after reset is what a reset makes of itself. -/
theorem resetValues : Obligations.ResetValues := by
  refine ⟨State.reset.applyReset_readReg, statusWord_reset, rfl, rfl, rfl, rfl, rfl, rfl, rfl, ?laneA, ?laneB,
    State.applyReset_mem⟩
  case laneA =>
    change unpackA zeroWords = zeroBlock
    rw [← pack2_zeroBlock, unpackA_pack2]
  case laneB =>
    change unpackB zeroWords = zeroBlock
    rw [← pack2_zeroBlock, unpackB_pack2]

/-- Settles O9: the turn of a reset is taken in every state, and only the agenda moves beside it. -/
theorem resetAppliesAtOnce : Obligations.ResetAppliesAtOnce := fun s rest ha =>
  ⟨(s.setAgenda rest).applyReset, step_of_reset ha, (s.setAgenda rest).applyReset_readReg, rfl, rfl, rfl, rfl, rfl, rfl,
    rfl, rfl, rfl, rfl, rfl⟩

/-! ### The invariant at the start -/

/-- A launch state is idle and has no key, so that the invariant asks of its memory alone. -/
theorem State.Inv.launch {c : Config} {m : Memory} (hm : m.wf c.memSize) (turns : List Turn) :
    (State.launch c m turns).Inv where
  mem_wf := hm
  busy_err hb := absurd hb Bool.false_ne_true
  busy_awaiting hb := absurd hb Bool.false_ne_true
  key_schedule hk := absurd hk Bool.false_ne_true
  fast_keyed hv := nomatch (hv : Variant.constantTime = .fast)

/-- Settles O11: the state after reset is a launch state with an empty memory. -/
theorem launchMeetsInvariant : Obligations.LaunchMeetsInvariant :=
  ⟨fun _ _ turns hm => .launch hm turns, .launch State.reset_mem_wf []⟩

end Sys2Proof.Machine
end

section
/-! SUPPORT. How many evaluations of E Seal and Open make, and what a counted command answers and counts
(70_reset_and_hazards.md R278). -/

namespace Sys2Proof

section
variable (dk : Vector Block 17)

/-- Seal makes one evaluation for each chunk of the AD, two for each chunk of the message (the tag and the keystream), and
one for the tag itself (43_aead.md R212). -/
@[simp] theorem Counted.sealMessage_calls (nonce p ad : List Byte) :
    (Counted.sealMessage dk nonce p ad).calls = chunkCount ad.length + 2 * chunkCount p.length + 1 := by
  simp only [Counted.sealMessage, Counted.bind_calls, Counted.tag_calls, Counted.keystream_calls, Counted.pure_calls]
  omega

/-- Open makes as many evaluations as Seal of the message without its tag, whether or not the tag verifies (R213). -/
@[simp] theorem Counted.openMessage_calls (nonce x ad : List Byte) :
    (Counted.openMessage dk nonce x ad).calls = chunkCount ad.length + 2 * chunkCount (x.length - 16) + 1 := by
  have hbody : (x.take (x.length - 16)).length = x.length - 16 := by simp
  simp only [Counted.openMessage, Counted.bind_calls, Counted.tag_calls, Counted.keystream_calls, Counted.keystream_value,
    Counted.pure_calls, keystream_length, hbody]
  omega

end

end Sys2Proof

namespace Sys2Proof.Machine

open Sys2Proof.Statements

section
variable {s : State} {i : Instr} {error : Option ErrCode} {out : Counted (List Byte × ErrCode)}

/-- A counted command that makes the checks of a keyed command and has its effect answers what that command does. -/
theorem State.countedStore_value (hi : isEngine i = false) (hr : s.commandError i = error)
    (he : s.commandEffect i = .bytes out.value.1 out.value.2) :
    (s.countedStore error out).value = exec i s := by
  rw [exec_eq]
  cases error with
  | some e => rw [State.afterCommand_of_error hr, State.endCommand_of_keyed _ _ hi]; rfl
  | none => rw [State.afterCommand_of_none hr, State.endCommand_of_keyed _ _ hi, he]; rfl

/-- A counted command makes its evaluations when no check applies, and none otherwise. -/
theorem State.countedStore_calls (s : State) (error : Option ErrCode) (out : Counted (List Byte × ErrCode)) :
    (s.countedStore error out).calls = if error = none then out.calls else 0 := by
  cases error <;> rfl

/-- The evaluations of a keyed command, with its checks in the arithmetic of the statements. -/
theorem cipherEvaluations_of_countedStore {n : Nat} {P : Prop} [Decidable P]
    (hx : execCounted i s = s.countedStore error out) (hP : error = none ↔ P) (hn : out.calls = n) :
    cipherEvaluations s i = if P then n else 0 := by
  rw [cipherEvaluations, hx, State.countedStore_calls, hn]
  exact if_congr hP rfl rfl

end

end Sys2Proof.Machine
end

section
/-! The number of E evaluations (O52): counting changes no outcome, the counts are those of R278, and the commands that
make none do not depend on DK. -/

namespace Sys2Proof.Machine

open Sys2Proof.Statements

/-! ### The outcome -/

/-- The counted commands have the outcome of the commands. -/
theorem execCounted_value (i : Instr) (s : State) : (execCounted i s).value = exec i s := by
  cases i with
  | aeadEnc => exact State.countedStore_value rfl rfl (by simp [State.commandEffect])
  | aeadDec => exact State.countedStore_value rfl rfl (by simp [State.commandEffect, State.decEffect])
  | bcEnc | bcDualKs | bcTag1 | bcTag2 => exact State.countedStore_value rfl rfl rfl
  | keySetup | qLoad1 | qLoad2 | qStore1 | qStore2 | qOrtho | qAddrk | qSub | qSr | qMc => rfl

/-! ### The counts -/

/-- A Q_* command makes no evaluation of E. -/
theorem cipherEvaluations_engine (s : State) {i : Instr} (hi : isEngine i = true) : cipherEvaluations s i = 0 := by
  cases i
  case keySetup | aeadEnc | aeadDec | bcEnc | bcDualKs | bcTag1 | bcTag2 => cases hi
  all_goals rfl

/-! ### The commands that make no evaluation -/

section
variable (s : State) (d : Vector Block 17)

/-- KEY_SETUP and the Q_* commands do not read DK, whether or not there is a key. -/
theorem State.commandEffect_withDk_of_uncounted {i : Instr} (hi : isEngine i = true ∨ ∃ v, i = .keySetup v) :
    (s.withDk d).commandEffect i = s.commandEffect i := by
  cases i
  case aeadEnc | aeadDec | bcEnc | bcDualKs | bcTag1 | bcTag2 => simp [isEngine] at hi
  all_goals rfl

/-- A command whose effect does not depend on DK ends, from two states that differ in DK alone, in two such states. -/
theorem sameButDk_exec_of_effect {i : Instr} (he : (s.withDk d).commandEffect i = s.commandEffect i) :
    SameButDk (exec i s) (exec i (s.withDk d)) := by
  obtain ⟨d', hd'⟩ := s.applyEffect_withDk d (s.commandEffect i)
  rw [exec_eq, exec_eq]
  cases h : s.commandError i with
  | some e =>
    rw [State.afterCommand_of_error h, State.afterCommand_of_error ((s.commandError_withDk d i).trans h),
      s.endCommand_withDk d i e]
    exact .next rfl
  | none =>
    rw [State.afterCommand_of_none h, State.afterCommand_of_none ((s.commandError_withDk d i).trans h), he, hd',
      State.endCommand_withDk _ d' i _]
    exact .next rfl

end

/-- Settles O52: the outcome command by command, the counts from the checks and from what the cipher functions count, and
two runs from states that differ in DK alone. -/
theorem evaluationsFixedByLengths : Obligations.EvaluationsFixedByLengths := by
  refine ⟨execCounted_value, fun s => ⟨fun _ => rfl, fun _ => cipherEvaluations_engine s, ?bcEnc, ?bcTag1, ?bcDualKs,
    ?bcTag2, ?aeadEnc, ?aeadDec⟩, fun i s t d hi => ?dk⟩
  case bcEnc | bcTag1 | bcDualKs | bcTag2 =>
    exact cipherEvaluations_of_countedStore rfl (s.cipherError_eq_none_iff_fits _ _ _) rfl
  case aeadEnc =>
    exact cipherEvaluations_of_countedStore rfl s.encError_eq_none_iff_fits (by
      simp [chunkCount, State.adRegion, State.inputRegion])
  case aeadDec =>
    exact cipherEvaluations_of_countedStore rfl s.decError_eq_none_iff_fits (by
      simp [chunkCount, State.adRegion, State.inputRegion])
  case dk => exact (sameButDk_exec_of_effect s d (s.commandEffect_withDk_of_uncounted d hi)).1 t

end Sys2Proof.Machine
end
